-- ==== Sys2Proof/Word.lean ====
section
/-! DEFINITION. The machine's two word types: the 32-bit register word (00_scope.md R11) and the
8-bit value of a byte string (00_scope.md R13). -/

namespace Sys2Proof

/-- A 32-bit register or command word (00_scope.md R11, 30_encoding.md R70). -/
abbrev Word := BitVec 32

/-- One 8-bit value of a byte string (00_scope.md R13). -/
abbrev Byte := BitVec 8

end Sys2Proof
end

