-- ==== Sys2Proof/Config.lean ====
section
/-! DEFINITION. The block's parameters: the constants the spec fixes (00_scope.md R6 to R11) and the two
parameters it leaves open, BASE and latency, which have no body. -/

namespace Sys2Proof.Config

/-- STEP, the time step in seconds, fixed (00_scope.md R6). -/
def step : Nat := 30

/-- DIGITS, the number of decimal digits of a code, fixed (00_scope.md R7). -/
def digits : Nat := 6

/-- SECRET_LENGTHS, the accepted secret lengths in bytes (00_scope.md R8). -/
def secretLengths : List Nat := [16, 26, 32]

/-- WINDOW, the size of the register window in bytes (00_scope.md R11). -/
def window : Nat := 256

/-- The platform's choice of window, counted in windows: BASE is a multiple of 256 and otherwise open
(00_scope.md R11, 92_eei_decisions.md D2, 93_implementation_defined.md U11). Log entry 7. -/
opaque basePage : Nat

/-- BASE, the bus address of offset 0x00 (00_scope.md R11). -/
def base : Nat := window * basePage

/-- The build's command latency. No rule uses it (70_reset_and_hazards.md R213, 92_eei_decisions.md D28), and
no definition of the model does. Log entry 11. -/
opaque latency : Nat

end Sys2Proof.Config
end

