-- ==== Sys2Proof/Syntax.lean ====
section
/-! DEFINITION. The syntax: the seven commands of the opcode table, the registers of the window, the
events the host can cause, bus accesses, and the operations of a host program. -/

namespace Sys2Proof

/-- The commands, one constructor per row of spec/opcode_table.json (30_encoding.md R72, R74). No
command takes an operand (R71); an illegal command keeps the word it was written as. -/
inductive Instr where
  | nop
  | decode
  | counter
  | generate
  | totp
  | zeroize
  | illegal (w : Word)
  deriving DecidableEq, Repr

/-- The registers of the window (10_state.md, the register map). `reserved k` is offset 0x68 + 4k. -/
inductive Reg where
  | ident
  | cmd
  | status
  | secretLen
  | secret (k : Fin 8)
  | timeLo
  | timeHi
  | counterLo
  | counterHi
  | keyLen
  | trunc
  | codeInt
  | code0
  | code1
  | digest (k : Fin 5)
  | reserved (k : Fin 38)
  deriving DecidableEq, Repr

/-- What the outside world can do to the block: the host's reads and writes of the window
(00_scope.md R14), whose width is in bytes and is 4 inside the interface (20_memory.md R55), and the
reset input (70_reset_and_hazards.md R200). A write of another width is refused whatever it carries, so
`v` has one width. -/
inductive HostEvent where
  | read (off : BitVec 8) (width : Nat)
  | write (off : BitVec 8) (width : Nat) (v : Word)
  | reset
  deriving DecidableEq, Repr

/-- An access on the platform's bus, by bus address: `store` is the value of a write, none for a read. -/
structure BusAccess where
  addr : Nat
  width : Nat
  store : Option Word
  deriving DecidableEq, Repr

/-- The operations and pseudo-operations of a host program (30_encoding.md R76, R77). A register is
given by its offset; `cmd` takes a command by its mnemonic. -/
inductive HostOp where
  | wr (off : BitVec 8) (v : Word)
  | rd (off : BitVec 8)
  | cmd (i : Instr)
  | cmdRaw (w : Word)
  | ldSecret (s : List Byte)
  | ldTime (t : Int)
  | ldCounter (c : Nat)
  | rdCode
  | rdDigest
  deriving DecidableEq, Repr

/-- Why a line of host-program text is not an operation of 30_encoding.md R76 and R77. -/
inductive AsmError where
  | unknownOperation
  | unknownRegister
  | unknownMnemonic
  | badNumber
  | outOfRange
  | badString
  | badForm
  deriving DecidableEq, Repr

end Sys2Proof
end

