-- ==== Sys2Proof/WellFormed.lean ====
section
/-! DEFINITION. Which terms of the syntax the spec admits: illegal commands carry an illegal word
(30_encoding.md R73), accesses are inside the interface (20_memory.md R55), host operations meet
the ranges of 30_encoding.md R76 and R77. -/

namespace Sys2Proof

/-- An illegal command carries a word that 30_encoding.md R73 calls illegal. -/
def Instr.wellFormed : Instr → Bool
  | .nop => true
  | .decode => true
  | .counter => true
  | .generate => true
  | .totp => true
  | .zeroize => true
  | .illegal w => w.extractLsb' 8 24 != 0 || decide (6 ≤ (w.extractLsb' 0 8).toNat)

/-- A width and an offset inside the interface: 32 bits, at a multiple of 4 (20_memory.md R55). -/
def insideInterface (off : BitVec 8) (width : Nat) : Bool :=
  width == 4 && off.toNat % 4 == 0

/-- A host event inside the interface (20_memory.md R55). A reset always is. -/
def HostEvent.wellFormed : HostEvent → Bool
  | .read off width => insideInterface off width
  | .write off width _ => insideInterface off width
  | .reset => true

/-- A host operation within the ranges of 30_encoding.md R76 and R77: aligned offsets, one of the six
mnemonics, at most 32 characters each below 0x80, a signed and an unsigned 64-bit number. -/
def HostOp.wellFormed : HostOp → Bool
  | .wr off _ => off.toNat % 4 == 0
  | .rd off => off.toNat % 4 == 0
  | .cmd (.illegal _) => false
  | .cmd _ => true
  | .cmdRaw _ => true
  | .ldSecret s => decide (s.length ≤ 32) && s.all (fun b => decide (b.toNat < 128))
  | .ldTime t => decide (-(2 ^ 63) ≤ t) && decide (t < 2 ^ 63)
  | .ldCounter c => decide (c < 2 ^ 64)
  | .rdCode => true
  | .rdDigest => true

end Sys2Proof
end

