-- ==== Sys2Proof/Decode.lean ====
section
/-! DEFINITION. The command decoder of 30_encoding.md R74, total on all 32-bit words: a word that is no
command decodes to the ILLEGAL command, which names the word. After it the encoder, written from the opcode
map of 30_encoding.md R72, and the reading of the opcode table's words. -/

namespace Sys2Proof

/-- CMD.OP = w[7:0] (30_encoding.md R70). -/
def cmdOp (w : Word) : BitVec 8 := w.extractLsb' 0 8

/-- CMD.RSV = w[31:8] (30_encoding.md R70). -/
def cmdRsv (w : Word) : BitVec 24 := w.extractLsb' 8 24

/-- The decoder of 30_encoding.md R74. -/
def decodeWord (w : Word) : Instr :=
  if cmdRsv w ≠ 0 then .illegal w
  else
    match (cmdOp w).toNat with
    | 0x00 => .nop
    | 0x01 => .decode
    | 0x02 => .counter
    | 0x03 => .generate
    | 0x04 => .totp
    | 0x05 => .zeroize
    | _ => .illegal w

/-- The command word of an instruction (30_encoding.md R72). -/
def encode : Instr → Word
  | .nop => 0x00000000
  | .decode => 0x00000001
  | .counter => 0x00000002
  | .generate => 0x00000003
  | .totp => 0x00000004
  | .zeroize => 0x00000005
  | .illegal w => w

/-- The 32-bit command word of a table word of `nbits` bits: the bits above `nbits` are 0. -/
def tableWord (nbits w : Nat) : Word := BitVec.ofNat 32 (w % 2 ^ nbits)

/-- The instruction the decoder reads from a word of the opcode table. Every command is one 32-bit word
(30_encoding.md R75), so a row of more than 32 bits is none. Log entry 16. -/
def decodeTableWord (nbits w : Nat) : Option Instr :=
  if nbits ≤ 32 then some (decodeWord (tableWord nbits w)) else none

end Sys2Proof
end

