-- ==== Sys2Proof/Machine/State.lean ====
section
/-! DEFINITION. The state record S of 10_state.md R20, the host's side of the machine (its pending
events and what its reads returned), the reasons a step can stop, and the state after reset
(10_state.md R45). -/

namespace Sys2Proof.Machine

/-- The error kinds STATUS.ERR can hold (60_exceptions.md R181). Codes 6 to 15 are never produced
(93_implementation_defined.md U1), so the type has no name for them. Log entry 9. -/
inductive ErrorKind where
  | none
  | invalidSecretLength
  | base32DecodeError
  | clockError
  | sequenceError
  | illegalCommand
  deriving DecidableEq, Repr

/-- The machine. The first fourteen fields are S, in the order of 10_state.md R20; `pending` and
`observed` are the model's own and stand for the host agent (log entries 1 and 4). -/
structure State where
  /-- SECRET, the secret text (10_state.md R28). -/
  secret : Vector Byte 32
  /-- SECRET_LEN, its length in bytes; any value is legal (R27). -/
  secretLen : Word
  /-- TIME, a 64-bit pattern read as signed (R29). -/
  time : BitVec 64
  /-- COUNTER (R30). -/
  counter : BitVec 64
  /-- CTR_VALID (R39). -/
  ctrValid : Bool
  /-- KEY, hidden (R32). -/
  key : Vector Byte 20
  /-- KEY_LEN (R31). -/
  keyLen : BitVec 8
  /-- KEY_VALID (R39). -/
  keyValid : Bool
  /-- DIGEST (R37). -/
  digest : Vector Byte 20
  /-- TRUNC (R34). -/
  trunc : BitVec 31
  /-- CODE_INT (R35). -/
  codeInt : BitVec 20
  /-- CODE (R36). -/
  code : Vector Byte 6
  /-- CODE_VALID (R39). -/
  codeValid : Bool
  /-- ERR (60_exceptions.md R181, R182). -/
  err : ErrorKind
  /-- The host's events still to be served, the next one first. -/
  pending : List HostEvent
  /-- The values the host's reads returned, oldest first (70_reset_and_hazards.md R214). -/
  observed : List Word
  deriving DecidableEq, Repr

/-- The faults of the machine: none. An error is a value in ERR and the block does not trap, halt or lock
up (60_exceptions.md R180, R187), so no constructor exists and no step faults. -/
inductive Fault where
  deriving DecidableEq, Repr

/-- Why a step has no next state. -/
inductive Refusal where
  /-- Raised by an arm of exec for an instruction without a meaning; no arm raises it. Safe: the run stops. -/
  | notModelled (mnemonic : String)
  /-- Raised by the service of a host access that is not 32 bits wide or not at a multiple of 4, which
  20_memory.md R55 gives no step. Safe: a claim about such a run cannot be proved. Log entry 5. -/
  | outsideInterface (off : BitVec 8) (width : Nat)
  deriving DecidableEq, Repr

/-- The machine right after reset (10_state.md R45): every field of S is zero and ERR is NONE. The host's
two lists are empty (log entry 8). -/
def State.reset : State where
  secret := Vector.replicate 32 0
  secretLen := 0
  time := 0
  counter := 0
  ctrValid := false
  key := Vector.replicate 20 0
  keyLen := 0
  keyValid := false
  digest := Vector.replicate 20 0
  trunc := 0
  codeInt := 0
  code := Vector.replicate 6 0
  codeValid := false
  err := .none
  pending := []
  observed := []

end Sys2Proof.Machine
end

