-- ==== Sys2Proof/Machine/Ops.lean ====
section
/-! DEFINITION. The named operations the commands share: byte strings (00_scope.md R13), the two
actions of 44_control.md R160 and R161, the recording of an error (00_scope.md R14, 60_exceptions.md
R182, R187), the writes of a stage's results, and reset (70_reset_and_hazards.md R200). -/

namespace Sys2Proof.Machine

/-! ### Byte strings -/

/-- be_n(v), the n-byte big-endian encoding of v (00_scope.md R13). -/
def beBytes : Nat → Nat → List Byte
  | 0, _ => []
  | n + 1, v => BitVec.ofNat 8 (v / 256 ^ n) :: beBytes n v

/-- int_be(s), the unsigned integer whose big-endian encoding is s (00_scope.md R13). -/
def intBe (s : List Byte) : Nat := s.foldl (fun acc b => acc * 256 + b.toNat) 0

/-- s || 0^(n - |s|) as a buffer of n bytes; a longer s is cut. -/
def padTo (n : Nat) (s : List Byte) : Vector Byte n :=
  ⟨((s ++ List.replicate n 0).take n).toArray, by simp⟩

/-! ### Actions on the state -/

/-- clear_code_outputs() (44_control.md R160). -/
def clearCodeOutputs (s : State) : State :=
  { s with
    digest := Vector.replicate 20 0
    trunc := 0
    codeInt := 0
    code := Vector.replicate 6 0
    codeValid := false }

/-- zeroize_key() (44_control.md R161). -/
def zeroizeKey (s : State) : State :=
  { s with key := Vector.replicate 20 0, keyLen := 0, keyValid := false }

/-- Taking an error: ERR is set to its code and control goes to the end of the command (00_scope.md R14,
60_exceptions.md R182). Nothing is saved and there is no vector, handler or mode (R187), and no return
operation exists (R188). -/
def raise (e : ErrorKind) (s : State) : State := { s with err := e }

/-- A command that ends well sets ERR to 0 (60_exceptions.md R182). -/
def succeed (s : State) : State := { s with err := .none }

/-- The key bytes a command uses, KEY[0..KEY_LEN] (43_generate.md R147). Log entry 15. -/
def heldKey (s : State) : List Byte := s.key.toList.take s.keyLen.toNat

/-- KEY <- k || 0^(20-|k|); KEY_LEN <- |k|; KEY_VALID <- 1 (40_decode.md R97). -/
def storeKey (k : List Byte) (s : State) : State :=
  { s with key := padTo 20 k, keyLen := BitVec.ofNat 8 k.length, keyValid := true }

/-- COUNTER <- c; CTR_VALID <- 1 (41_counter.md R113). -/
def storeCounter (c : BitVec 64) (s : State) : State := { s with counter := c, ctrValid := true }

/-- COUNTER <- 0; CTR_VALID <- 0 (41_counter.md R113). -/
def dropCounter (s : State) : State := { s with counter := 0, ctrValid := false }

/-- SECRET <- 0^32; SECRET_LEN <- 0 (44_control.md R170). -/
def clearSecret (s : State) : State := { s with secret := Vector.replicate 32 0, secretLen := 0 }

/-- What GenerateCode returns (43_generate.md R145). -/
structure CodeResult where
  digest : Vector Byte 20
  trunc : BitVec 31
  codeInt : BitVec 20
  code : Vector Byte 6
  deriving DecidableEq, Repr

/-- DIGEST, TRUNC, CODE_INT and CODE take a result and CODE_VALID <- 1 (43_generate.md R147). -/
def storeCode (r : CodeResult) (s : State) : State :=
  { s with
    digest := r.digest
    trunc := r.trunc
    codeInt := r.codeInt
    code := r.code
    codeValid := true }

/-- Reset: every field of S takes its value of 10_state.md R45 (70_reset_and_hazards.md R200). The host's
lists are not the block's and stay (log entry 6). -/
def resetBlock (s : State) : State :=
  { State.reset with pending := s.pending, observed := s.observed }

/-- The host's read returned v. -/
def observe (v : Word) (s : State) : State := { s with observed := s.observed ++ [v] }

end Sys2Proof.Machine
end

