-- ==== Sys2Proof/Machine/Flags.lean ====
section
/-! DEFINITION. The flags: the error codes of 60_exceptions.md R181 and the STATUS word of 10_state.md
R26. The block has no condition codes (10_state.md R39). -/

namespace Sys2Proof.Machine

/-- The code of an error kind (60_exceptions.md R181). -/
def ErrorKind.code : ErrorKind → BitVec 4
  | .none => 0
  | .invalidSecretLength => 1
  | .base32DecodeError => 2
  | .clockError => 3
  | .sequenceError => 4
  | .illegalCommand => 5

/-- A flag as a 32-bit number. -/
def flagWord (b : Bool) : Word := (BitVec.ofBool b).setWidth 32

/-- STATUS as the host reads it (10_state.md R26). Bit 0, BUSY, is always 0 (R46). -/
def statusWord (s : State) : Word :=
  (s.err.code.setWidth 32 <<< 8) ||| (flagWord s.codeValid <<< 3) ||| (flagWord s.ctrValid <<< 2)
    ||| (flagWord s.keyValid <<< 1)

end Sys2Proof.Machine
end

