-- ==== Sys2Proof/Machine/Operands.lean ====
section
/-! DEFINITION. The register window, which is how every operand reaches the block and every result leaves
it: the register map (10_state.md), the byte lanes (20_memory.md R53), what a read of each register
returns and what a write of each register does. CMD is apart: Machine/Access.lean runs its commands. -/

namespace Sys2Proof.Machine

/-! ### Lanes -/

/-- Byte lane j of a word, bits [31-8j : 24-8j] (20_memory.md R53). -/
def byteLane (v : Word) (j : Nat) : Byte := v.extractLsb' (24 - 8 * j) 8

/-- Four bytes as a word, the first one most significant (20_memory.md R53). -/
def packWord (b0 b1 b2 b3 : Byte) : Word := b0 ++ b1 ++ b2 ++ b3

/-- Bits 31:0 of a 64-bit register, its _LO word (20_memory.md R53). -/
def loHalf (x : BitVec 64) : Word := x.extractLsb' 0 32

/-- Bits 63:32 of a 64-bit register, its _HI word (20_memory.md R53). -/
def hiHalf (x : BitVec 64) : Word := x.extractLsb' 32 32

/-- The 64-bit register with these two halves. -/
def joinHalves (hi lo : Word) : BitVec 64 := hi ++ lo

/-! ### The register map -/

/-- The offset of a register (10_state.md, the register map). -/
def regOffset : Reg → BitVec 8
  | .ident => 0x00
  | .cmd => 0x04
  | .status => 0x08
  | .secretLen => 0x0C
  | .secret k => BitVec.ofNat 8 (0x10 + 4 * k.val)
  | .timeLo => 0x30
  | .timeHi => 0x34
  | .counterLo => 0x38
  | .counterHi => 0x3C
  | .keyLen => 0x40
  | .trunc => 0x44
  | .codeInt => 0x48
  | .code0 => 0x4C
  | .code1 => 0x50
  | .digest k => BitVec.ofNat 8 (0x54 + 4 * k.val)
  | .reserved k => BitVec.ofNat 8 (0x68 + 4 * k.val)

/-- The register at an offset, none where the offset is not a multiple of 4 (10_state.md, the register map;
20_memory.md R55). -/
def regAt (off : BitVec 8) : Option Reg :=
  let n := off.toNat
  if n % 4 ≠ 0 then none
  else if n = 0x00 then some .ident
  else if n = 0x04 then some .cmd
  else if n = 0x08 then some .status
  else if n = 0x0C then some .secretLen
  else if h : 0x10 ≤ n ∧ n < 0x30 then some (.secret ⟨(n - 0x10) / 4, by omega⟩)
  else if n = 0x30 then some .timeLo
  else if n = 0x34 then some .timeHi
  else if n = 0x38 then some .counterLo
  else if n = 0x3C then some .counterHi
  else if n = 0x40 then some .keyLen
  else if n = 0x44 then some .trunc
  else if n = 0x48 then some .codeInt
  else if n = 0x4C then some .code0
  else if n = 0x50 then some .code1
  else if h : 0x54 ≤ n ∧ n < 0x68 then some (.digest ⟨(n - 0x54) / 4, by omega⟩)
  else some (.reserved ⟨(n - 0x68) / 4, by have := off.isLt; omega⟩)

/-! ### Reads -/

/-- IDENT, the ASCII bytes "HD06" (10_state.md R24). -/
def identWord : Word := 0x48443036

/-- SECRETk (10_state.md R28). -/
def secretWord (secret : Vector Byte 32) (k : Fin 8) : Word :=
  packWord secret[4 * k.val] secret[4 * k.val + 1] secret[4 * k.val + 2] secret[4 * k.val + 3]

/-- DIGESTk (10_state.md R37). -/
def digestWord (digest : Vector Byte 20) (k : Fin 5) : Word :=
  packWord digest[4 * k.val] digest[4 * k.val + 1] digest[4 * k.val + 2] digest[4 * k.val + 3]

/-- What a read of a register returns (10_state.md R24 to R38). -/
def readReg (r : Reg) (s : State) : Word :=
  match r with
  | .ident => identWord
  | .cmd => 0
  | .status => statusWord s
  | .secretLen => s.secretLen
  | .secret k => secretWord s.secret k
  | .timeLo => loHalf s.time
  | .timeHi => hiHalf s.time
  | .counterLo => loHalf s.counter
  | .counterHi => hiHalf s.counter
  | .keyLen => s.keyLen.setWidth 32
  | .trunc => s.trunc.setWidth 32
  | .codeInt => s.codeInt.setWidth 32
  | .code0 => packWord s.code[0] s.code[1] s.code[2] s.code[3]
  | .code1 => packWord s.code[4] s.code[5] 0 0
  | .digest k => digestWord s.digest k
  | .reserved _ => 0

/-! ### Writes -/

/-- SECRET with its word k written (10_state.md R28). -/
def setSecretWord (secret : Vector Byte 32) (k : Fin 8) (v : Word) : Vector Byte 32 :=
  (((secret.set (4 * k.val) (byteLane v 0)).set (4 * k.val + 1) (byteLane v 1)).set
    (4 * k.val + 2) (byteLane v 2)).set (4 * k.val + 3) (byteLane v 3)

/-- A host write to a half of COUNTER: the counter takes its new value, CTR_VALID <- 1 and the code outputs
are cleared (10_state.md R33). -/
def writeCounter (c : BitVec 64) (s : State) : State := clearCodeOutputs (storeCounter c s)

/-- What a host write does at every register but CMD (10_state.md R24, R26 to R38; 20_memory.md R59). At
CMD it stores nothing (R25). -/
def writeReg (r : Reg) (v : Word) (s : State) : State :=
  match r with
  | .secretLen => { s with secretLen := v }
  | .secret k => { s with secret := setSecretWord s.secret k v }
  | .timeLo => { s with time := joinHalves (hiHalf s.time) v }
  | .timeHi => { s with time := joinHalves v (loHalf s.time) }
  | .counterLo => writeCounter (joinHalves (hiHalf s.counter) v) s
  | .counterHi => writeCounter (joinHalves v (loHalf s.counter)) s
  | .ident => s
  | .cmd => s
  | .status => s
  | .keyLen => s
  | .trunc => s
  | .codeInt => s
  | .code0 => s
  | .code1 => s
  | .digest _ => s
  | .reserved _ => s

end Sys2Proof.Machine
end

