-- ==== Sys2Proof/Machine/Base32.lean ====
section
/-! DEFINITION. The Secret Validator/Decoder (40_decode.md): the function DecodeSecret (R90 to R96)
and the DECODE command (R97). -/

namespace Sys2Proof.Machine

/-- ASCII upper-casing: only 'a' to 'z' change (40_decode.md R91). -/
def normalise (c : Byte) : Byte := if 0x61 ≤ c.toNat ∧ c.toNat ≤ 0x7A then c - 0x20 else c

/-- val(u), the base32 value of a normalised byte (40_decode.md R92). -/
def base32Val (u : Byte) : Option Nat :=
  if 0x41 ≤ u.toNat ∧ u.toNat ≤ 0x5A then some (u.toNat - 0x41)
  else if 0x32 ≤ u.toNat ∧ u.toNat ≤ 0x37 then some (u.toNat - 0x32 + 26)
  else none

/-- The values of a secret's bytes, none if some byte is outside the alphabet once normalised
(40_decode.md R91, R92). -/
def base32Values : List Byte → Option (List Nat)
  | [] => some []
  | c :: cs =>
    match base32Val (normalise c), base32Values cs with
    | some v, some vs => some (v :: vs)
    | _, _ => none

/-- V, the 5-bit values concatenated, the first one most significant (40_decode.md R93). -/
def bitString (vs : List Nat) : Nat := vs.foldl (fun acc v => acc * 32 + v) 0

/-- DecodeSecret (40_decode.md R96). -/
def decodeSecret (secret : Vector Byte 32) (secretLen : Word) : Except ErrorKind (List Byte) :=
  let n := secretLen.toNat
  if n ∈ Config.secretLengths then
    match base32Values (secret.toList.take n) with
    | none => .error .base32DecodeError
    | some vs =>
      let m := 5 * n / 8
      let r := 5 * n - 8 * m
      .ok (beBytes m (bitString vs >>> r))
  else .error .invalidSecretLength

/-- DECODE (40_decode.md R97). -/
def execDecode (s : State) : Host.Outcome State Fault Refusal :=
  let s := clearCodeOutputs s
  match decodeSecret s.secret s.secretLen with
  | .error e => .next (raise e (zeroizeKey s))
  | .ok k => .next (succeed (storeKey k s))

end Sys2Proof.Machine
end

