-- ==== Sys2Proof/Machine/Clock.lean ====
section
/-! DEFINITION. Counter Derivation (41_counter.md): the function DeriveCounter (R110 to R112) and the
COUNTER command (R113). -/

namespace Sys2Proof.Machine

/-- DeriveCounter (41_counter.md R112). -/
def deriveCounter (time : BitVec 64) : Except ErrorKind (BitVec 64) :=
  if time.toInt < 0 then .error .clockError
  else .ok (BitVec.ofNat 64 (time.toInt.toNat / Config.step))

/-- COUNTER (41_counter.md R113). -/
def execCounter (s : State) : Host.Outcome State Fault Refusal :=
  let s := clearCodeOutputs s
  match deriveCounter s.time with
  | .error e => .next (raise e (dropCounter s))
  | .ok c => .next (succeed (storeCounter c s))

end Sys2Proof.Machine
end

