-- ==== Sys2Proof/Machine/Sha1.lean ====
section
/-! DEFINITION. SHA-1 and HMAC-SHA1 (42_hmac_sha1.md R120 to R132), the functions GENERATE and TOTP use. The
spec gives every rule of that file from general knowledge and numbers it; the model follows the rules. -/

namespace Sys2Proof.Machine

/-! ### SHA-1 -/

/-- z, the number of zero bytes of the padding: the least z with (L + 1 + z) mod 64 = 56
(42_hmac_sha1.md R121). -/
def sha1ZeroBytes (len : Nat) : Nat := (119 - len % 64) % 64

/-- The padded message P (42_hmac_sha1.md R121). -/
def sha1Pad (m : List Byte) : List Byte :=
  m ++ [0x80] ++ List.replicate (sha1ZeroBytes m.length) 0 ++ beBytes 8 (8 * m.length)

/-- The blocks B_0 to B_(N-1) of 64 bytes (42_hmac_sha1.md R122). -/
def sha1Blocks : Nat → List Byte → List (List Byte)
  | 0, _ => []
  | n + 1, p => p.take 64 :: sha1Blocks n (p.drop 64)

/-- The sixteen big-endian words of a block (42_hmac_sha1.md R122). -/
def blockWords (b : List Byte) : List Word :=
  (List.range 16).map fun t => BitVec.ofNat 32 (intBe ((b.drop (4 * t)).take 4))

/-- The five hash words H0 to H4, and the working variables a to e. -/
structure HashWords where
  a : Word
  b : Word
  c : Word
  d : Word
  e : Word
  deriving DecidableEq, Repr

/-- The initial hash value (42_hmac_sha1.md R123). -/
def sha1Init : HashWords := ⟨0x67452301, 0xEFCDAB89, 0x98BADCFE, 0x10325476, 0xC3D2E1F0⟩

/-- One more word of the message schedule; the words so far are held newest first
(42_hmac_sha1.md R124). -/
def scheduleNext (ws : List Word) : List Word :=
  (ws.getD 2 0 ^^^ ws.getD 7 0 ^^^ ws.getD 13 0 ^^^ ws.getD 15 0).rotateLeft 1 :: ws

/-- `n` more words of the message schedule. -/
def scheduleExtend : Nat → List Word → List Word
  | 0, ws => ws
  | n + 1, ws => scheduleExtend n (scheduleNext ws)

/-- The message schedule W[0] to W[79] of a block's words (42_hmac_sha1.md R124). -/
def messageSchedule (m : List Word) : List Word := (scheduleExtend 64 m.reverse).reverse

/-- f_t(b, c, d) (42_hmac_sha1.md R125). -/
def sha1F (t : Nat) (b c d : Word) : Word :=
  if t < 20 then (b &&& c) ||| (~~~b &&& d)
  else if t < 40 then b ^^^ c ^^^ d
  else if t < 60 then (b &&& c) ||| (b &&& d) ||| (c &&& d)
  else b ^^^ c ^^^ d

/-- K_t (42_hmac_sha1.md R125). -/
def sha1K (t : Nat) : Word :=
  if t < 20 then 0x5A827999
  else if t < 40 then 0x6ED9EBA1
  else if t < 60 then 0x8F1BBCDC
  else 0xCA62C1D6

/-- Round t with the schedule word w (42_hmac_sha1.md R126). -/
def sha1Round (t : Nat) (w : Word) (h : HashWords) : HashWords where
  a := h.a.rotateLeft 5 + sha1F t h.b h.c h.d + h.e + sha1K t + w
  b := h.a
  c := h.b.rotateLeft 30
  d := h.c
  e := h.d

/-- The rounds from round t on, one for each schedule word (42_hmac_sha1.md R126). -/
def sha1Rounds : Nat → List Word → HashWords → HashWords
  | _, [], h => h
  | t, w :: ws, h => sha1Rounds (t + 1) ws (sha1Round t w h)

/-- Word-by-word addition mod 2^32 of two hash values. -/
def HashWords.add (h k : HashWords) : HashWords := ⟨h.a + k.a, h.b + k.b, h.c + k.c, h.d + k.d, h.e + k.e⟩

/-- Compress (42_hmac_sha1.md R126). -/
def sha1Compress (h : HashWords) (block : List Byte) : HashWords :=
  h.add (sha1Rounds 0 (messageSchedule (blockWords block)) h)

/-- The hash words after every block, the first block first (42_hmac_sha1.md R127). -/
def sha1Hash (m : List Byte) : HashWords :=
  let p := sha1Pad m
  (sha1Blocks (p.length / 64) p).foldl sha1Compress sha1Init

/-- be_4(H0) || … || be_4(H4), 20 bytes (42_hmac_sha1.md R128). -/
def HashWords.bytes (h : HashWords) : Vector Byte 20 :=
  padTo 20 (beBytes 4 h.a.toNat ++ beBytes 4 h.b.toNat ++ beBytes 4 h.c.toNat ++ beBytes 4 h.d.toNat
    ++ beBytes 4 h.e.toNat)

/-- SHA1(M) (42_hmac_sha1.md R120 to R128). Log entry 13. -/
def sha1 (m : List Byte) : Vector Byte 20 := (sha1Hash m).bytes

/-! ### HMAC-SHA1 -/

/-- K0, the key as one block of 64 bytes (42_hmac_sha1.md R129). No command reaches the branch of a key longer
than 64 bytes (R130). -/
def hmacBlockKey (k : List Byte) : List Byte :=
  if k.length ≤ 64 then k ++ List.replicate (64 - k.length) 0
  else (sha1 k).toList ++ List.replicate 44 0

/-- HMAC_SHA1(K, m) (42_hmac_sha1.md R129). -/
def hmacSha1 (k m : List Byte) : Vector Byte 20 :=
  let k0 := hmacBlockKey k
  let ipadKey := k0.map fun b => b ^^^ 0x36
  let opadKey := k0.map fun b => b ^^^ 0x5C
  let inner := sha1 (ipadKey ++ m)
  sha1 (opadKey ++ inner.toList)

end Sys2Proof.Machine
end

