-- ==== Sys2Proof/Machine/Generator.lean ====
section
/-! DEFINITION. The Code Generator (43_generate.md): the function GenerateCode (R140 to R145) and the
GENERATE command (R147). -/

namespace Sys2Proof.Machine

/-- o, the low 4 bits of the last digest byte (43_generate.md R141). -/
def truncOffset (dg : Vector Byte 20) : Nat := (dg[19] &&& 0x0F).toNat

/-- 0 ≤ o ≤ 15, so every byte that Truncate reads exists (43_generate.md R144). -/
theorem truncOffset_lt (dg : Vector Byte 20) : truncOffset dg < 16 := by
  unfold truncOffset
  rw [BitVec.toNat_and]
  exact Nat.lt_of_le_of_lt Nat.and_le_right (by decide)

/-- The 31-bit value of the four digest bytes from offset o on (43_generate.md R141). -/
def truncateAt (dg : Vector Byte 20) (o : Nat) (h : o < 16) : BitVec 31 :=
  ((dg[o] &&& 0x7F).setWidth 31 <<< 24) ||| (dg[o + 1].setWidth 31 <<< 16)
    ||| (dg[o + 2].setWidth 31 <<< 8) ||| dg[o + 3].setWidth 31

/-- Truncate (43_generate.md R141). -/
def truncate (dg : Vector Byte 20) : BitVec 31 := truncateAt dg (truncOffset dg) (truncOffset_lt dg)

/-- code_int, the truncated value mod 10^DIGITS (43_generate.md R142). -/
def reduceCode (p : BitVec 31) : BitVec 20 := BitVec.ofNat 20 (p.toNat % 10 ^ Config.digits)

/-- Format, six ASCII decimal digits, the first most significant (43_generate.md R143). -/
def formatCode (x : Nat) : Vector Byte 6 :=
  Vector.ofFn fun k => BitVec.ofNat 8 (0x30 + x / 10 ^ (5 - k.val) % 10)

/-- GenerateCode (43_generate.md R145); the counter is serialised as be_8 (R140). -/
def generateCode (k : List Byte) (c : BitVec 64) : CodeResult :=
  let dg := hmacSha1 k (beBytes 8 c.toNat)
  let p := truncate dg
  let ci := reduceCode p
  { digest := dg, trunc := p, codeInt := ci, code := formatCode ci.toNat }

/-- GENERATE (43_generate.md R147). -/
def execGenerate (s : State) : Host.Outcome State Fault Refusal :=
  let s := clearCodeOutputs s
  if s.keyValid = false ∨ s.ctrValid = false then .next (raise .sequenceError s)
  else .next (succeed (storeCode (generateCode (heldKey s) s.counter) s))

end Sys2Proof.Machine
end

