-- ==== Sys2Proof/Machine/Control.lean ====
section
/-! DEFINITION. The pipeline and the control commands (44_control.md): TOTP (R163), ZEROIZE (R170),
NOP (R171) and ILLEGAL (R172). -/

namespace Sys2Proof.Machine

/-- TOTP (44_control.md R163): decode, derive the counter, generate, and release the key; the first stage
that fails ends it (R162). -/
def execTotp (s : State) : Host.Outcome State Fault Refusal :=
  let s := clearCodeOutputs s
  match decodeSecret s.secret s.secretLen with
  | .error e => .next (raise e (zeroizeKey s))
  | .ok k =>
    let s := storeKey k s
    match deriveCounter s.time with
    | .error e => .next (raise e (zeroizeKey (dropCounter s)))
    | .ok c =>
      let s := storeCounter c s
      .next (succeed (zeroizeKey (storeCode (generateCode (heldKey s) s.counter) s)))

/-- ZEROIZE (44_control.md R170). -/
def execZeroize (s : State) : Host.Outcome State Fault Refusal :=
  .next (succeed (zeroizeKey (clearSecret (clearCodeOutputs s))))

/-- NOP (44_control.md R171). -/
def execNop (s : State) : Host.Outcome State Fault Refusal := .next (succeed s)

/-- ILLEGAL (44_control.md R172): every illegal word behaves the same way (30_encoding.md R73). -/
def execIllegal (_w : Word) (s : State) : Host.Outcome State Fault Refusal :=
  .next (raise .illegalCommand s)

end Sys2Proof.Machine
end

