-- ==== Sys2Proof/Machine/Dispatch.lean ====
section
/-! DEFINITION. One arm per command of the opcode table: which meaning each one has. -/

namespace Sys2Proof.Machine

def exec (i : Instr) (s : State) : Host.Outcome State Fault Refusal :=
  match i with
  | .nop => Sys2Proof.Machine.execNop s
  | .decode => Sys2Proof.Machine.execDecode s
  | .counter => Sys2Proof.Machine.execCounter s
  | .generate => Sys2Proof.Machine.execGenerate s
  | .totp => Sys2Proof.Machine.execTotp s
  | .zeroize => Sys2Proof.Machine.execZeroize s
  | .illegal w => Sys2Proof.Machine.execIllegal w s

end Sys2Proof.Machine
end

