-- ==== Sys2Proof/Machine/Access.lean ====
section
/-! DEFINITION. The service of one host event: a read of a register, a write of a register, a command
written to CMD, a reset, or an access outside the interface, which has no step (20_memory.md R55). -/

namespace Sys2Proof.Machine

/-- MemRead(off, width) (00_scope.md R14; 20_memory.md R55, R58). -/
def serveRead (off : BitVec 8) (width : Nat) (s : State) : Host.Outcome State Fault Refusal :=
  match width, regAt off with
  | 4, some r => .next (observe (readReg r s) s)
  | _, _ => .refused (.outsideInterface off width)

/-- MemWrite(off, width, v) (00_scope.md R14; 20_memory.md R55, R59). A write to CMD runs the command the
word selects (10_state.md R25). -/
def serveWrite (off : BitVec 8) (width : Nat) (v : Word) (s : State) :
    Host.Outcome State Fault Refusal :=
  match width, regAt off with
  | 4, some .cmd => exec (decodeWord v) s
  | 4, some r => .next (writeReg r v s)
  | _, _ => .refused (.outsideInterface off width)

/-- One host event, served to the end (20_memory.md R60; 70_reset_and_hazards.md R200). -/
def serve (e : HostEvent) (s : State) : Host.Outcome State Fault Refusal :=
  match e with
  | .read off width => serveRead off width s
  | .write off width v => serveWrite off width v s
  | .reset => .next (resetBlock s)

/-- The next host event is taken from `pending` and served. Where the host does nothing, the block
keeps its state (60_exceptions.md R196). Log entry 2. -/
def serveNext (s : State) : Host.Outcome State Fault Refusal :=
  match s.pending with
  | [] => .next s
  | e :: rest => serve e { s with pending := rest }

/-- The host's next event is a write of `w` to CMD. -/
def commandNext (w : Word) (s : State) : State :=
  { s with pending := .write (regOffset .cmd) 4 w :: s.pending }

end Sys2Proof.Machine
end

