-- ==== Sys2Proof/Machine/Step.lean ====
section
/-! DEFINITION. One step of the machine: it serves one host event (92_eei_decisions.md D1). -/

namespace Sys2Proof.Machine

/-- One step: the next host event is served to the end (20_memory.md R60). -/
def step (s : State) : Host.Outcome State Fault Refusal := serveNext s

/-- s with a write of the command word to CMD as the host's next event, which is where a command comes
from (10_state.md R25). Log entry 3. -/
def State.withFetchWord (s : State) (nbits w : Nat) : State := commandNext (tableWord nbits w) s

end Sys2Proof.Machine
end

