-- ==== Sys2Proof/Machine/Program.lean ====
section
/-! DEFINITION. Host programs: what each operation of 30_encoding.md R76 and each pseudo-operation of
R77 expands into, and a program given to the host. -/

namespace Sys2Proof.Machine

/-- MemWrite(off(r), 4, v) (30_encoding.md R76). -/
def wrEvent (r : Reg) (v : Word) : HostEvent := .write (regOffset r) 4 v

/-- MemRead(off(r), 4) (30_encoding.md R76). -/
def rdEvent (r : Reg) : HostEvent := .read (regOffset r) 4

/-- The host accesses an operation expands into (30_encoding.md R76, R77). -/
def expandOp : HostOp → List HostEvent
  | .wr off v => [.write off 4 v]
  | .rd off => [.read off 4]
  | .cmd i => [wrEvent .cmd (encode i)]
  | .cmdRaw w => [wrEvent .cmd w]
  | .ldSecret s =>
    (List.finRange 8).map (fun k => wrEvent (.secret k) (secretWord (padTo 32 s) k))
      ++ [wrEvent .secretLen (BitVec.ofNat 32 s.length)]
  | .ldTime t =>
    let p := BitVec.ofInt 64 t
    [wrEvent .timeLo (loHalf p), wrEvent .timeHi (hiHalf p)]
  | .ldCounter c =>
    let p := BitVec.ofNat 64 c
    [wrEvent .counterLo (loHalf p), wrEvent .counterHi (hiHalf p)]
  | .rdCode => [rdEvent .code0, rdEvent .code1]
  | .rdDigest => (List.finRange 5).map fun k => rdEvent (.digest k)

/-- The host accesses of a program, in program order (20_memory.md R60). -/
def expandProgram (ops : List HostOp) : List HostEvent := ops.flatMap expandOp

/-- The host is given a program to run after the events it has still to issue. Log entry 3. -/
def loadProgram (ops : List HostOp) (s : State) : State :=
  { s with pending := s.pending ++ expandProgram ops }

end Sys2Proof.Machine
end

