-- ==== Sys2Proof/Machine/Assembler.lean ====
section
/-! DEFINITION. The text of a host program (30_encoding.md R76, R77): one operation a line, `;` starts
a comment, numbers are decimal or hex with 0x. The lexical details the rules leave open are log entry 12. -/

namespace Sys2Proof.Machine

/-- The pieces of a line. A quoted string is one piece. -/
inductive AsmToken where
  | word (cs : List Char)
  | text (cs : List Char)
  | comma
  deriving DecidableEq, Repr

/-- The names of the register map (10_state.md). -/
def regNames : List (String × Reg) :=
  [("IDENT", .ident), ("CMD", .cmd), ("STATUS", .status), ("SECRET_LEN", .secretLen),
    ("SECRET0", .secret 0), ("SECRET1", .secret 1), ("SECRET2", .secret 2), ("SECRET3", .secret 3),
    ("SECRET4", .secret 4), ("SECRET5", .secret 5), ("SECRET6", .secret 6), ("SECRET7", .secret 7),
    ("TIME_LO", .timeLo), ("TIME_HI", .timeHi), ("COUNTER_LO", .counterLo), ("COUNTER_HI", .counterHi)]
  ++ [("KEY_LEN", .keyLen), ("TRUNC", .trunc), ("CODE_INT", .codeInt), ("CODE0", .code0), ("CODE1", .code1),
    ("DIGEST0", .digest 0), ("DIGEST1", .digest 1), ("DIGEST2", .digest 2), ("DIGEST3", .digest 3),
    ("DIGEST4", .digest 4)]

/-- The six mnemonics of 30_encoding.md R72. -/
def cmdNames : List (String × Instr) :=
  [("NOP", .nop), ("DECODE", .decode), ("COUNTER", .counter), ("GENERATE", .generate), ("TOTP", .totp),
    ("ZEROIZE", .zeroize)]

/-- The entry of a table under a name. -/
def lookupName {α : Type} (table : List (String × α)) (cs : List Char) : Option α :=
  (table.find? fun e => e.1.toList == cs).map (·.2)

/-- The value of a digit in a base up to 16. -/
def digitVal (base : Nat) (c : Char) : Option Nat :=
  let n := c.toNat
  let v := if 0x30 ≤ n ∧ n ≤ 0x39 then n - 0x30
    else if 0x41 ≤ n ∧ n ≤ 0x46 then n - 0x41 + 10
    else if 0x61 ≤ n ∧ n ≤ 0x66 then n - 0x61 + 10
    else 16
  if v < base then some v else none

/-- Digits in a base, most significant first, after the value `acc`. -/
def digitsVal (base : Nat) : Nat → List Char → Option Nat
  | acc, [] => some acc
  | acc, c :: cs =>
    match digitVal base c with
    | some v => digitsVal base (acc * base + v) cs
    | none => none

/-- A number, decimal or hex with 0x (30_encoding.md R76). -/
def parseNat : List Char → Option Nat
  | [] => none
  | '0' :: 'x' :: c :: cs => digitsVal 16 0 (c :: cs)
  | c :: cs => digitsVal 10 0 (c :: cs)

/-- A signed number, for ld.time (30_encoding.md R77). -/
def parseInt : List Char → Option Int
  | '-' :: cs => (parseNat cs).map fun n => -(n : Int)
  | cs => (parseNat cs).map fun n => (n : Int)

/-- The pieces of a line up to its comment. `cur` is the piece being read, last character first, and
`quoted` says whether it is inside a quoted string; none where a string is not closed. -/
def tokens (quoted : Bool) (cur : List Char) : List Char → Option (List AsmToken)
  | [] =>
    if quoted then none
    else some (if cur.isEmpty then [] else [.word cur.reverse])
  | c :: cs =>
    let flush : List AsmToken := if cur.isEmpty then [] else [.word cur.reverse]
    if quoted then
      if c = '"' then (tokens false [] cs).map (.text cur.reverse :: ·) else tokens true (c :: cur) cs
    else if c = ';' then some flush
    else if c = '"' then (tokens true [] cs).map (flush ++ ·)
    else if c = ',' then (tokens false [] cs).map (flush ++ .comma :: ·)
    else if c = ' ' ∨ c = '\t' ∨ c = '\r' then (tokens false [] cs).map (flush ++ ·)
    else tokens false (c :: cur) cs

/-- A register by its name, or an offset in hex (30_encoding.md R76). -/
def parseTarget (cs : List Char) : Except AsmError (BitVec 8) :=
  match lookupName regNames cs with
  | some r => .ok (regOffset r)
  | none =>
    match cs with
    | '0' :: 'x' :: _ =>
      match parseNat cs with
      | some n => if n < Config.window then .ok (BitVec.ofNat 8 n) else .error .outOfRange
      | none => .error .badNumber
    | _ => .error .unknownRegister

/-- A 32-bit number. -/
def parseWord (cs : List Char) : Except AsmError Word :=
  match parseNat cs with
  | some n => if n < 2 ^ 32 then .ok (BitVec.ofNat 32 n) else .error .outOfRange
  | none => .error .badNumber

/-- The operation of a line's pieces; none for a line without one. -/
def parseTokens (ts : List AsmToken) : Except AsmError (Option HostOp) :=
  match ts with
  | [] => .ok none
  | .word op :: args =>
    let checked (o : HostOp) : Except AsmError (Option HostOp) :=
      if o.wellFormed then .ok (some o) else .error .outOfRange
    if op = "wr".toList then
      match args with
      | [.word name, .comma, .word v] => do checked (.wr (← parseTarget name) (← parseWord v))
      | _ => .error .badForm
    else if op = "rd".toList then
      match args with
      | [.word name] => do checked (.rd (← parseTarget name))
      | _ => .error .badForm
    else if op = "cmd".toList then
      match args with
      | [.word m] =>
        match lookupName cmdNames m with
        | some i => checked (.cmd i)
        | none => .error .unknownMnemonic
      | _ => .error .badForm
    else if op = "cmd.raw".toList then
      match args with
      | [.word w] => do checked (.cmdRaw (← parseWord w))
      | _ => .error .badForm
    else if op = "ld.secret".toList then
      match args with
      | [.text cs] =>
        if cs.all fun c => decide (c.toNat < 128) then
          checked (.ldSecret (cs.map fun c => BitVec.ofNat 8 c.toNat))
        else .error .badString
      | _ => .error .badForm
    else if op = "ld.time".toList then
      match args with
      | [.word t] =>
        match parseInt t with
        | some n => checked (.ldTime n)
        | none => .error .badNumber
      | _ => .error .badForm
    else if op = "ld.counter".toList then
      match args with
      | [.word c] =>
        match parseNat c with
        | some n => checked (.ldCounter n)
        | none => .error .badNumber
      | _ => .error .badForm
    else if op = "rd.code".toList then
      match args with
      | [] => checked .rdCode
      | _ => .error .badForm
    else if op = "rd.digest".toList then
      match args with
      | [] => checked .rdDigest
      | _ => .error .badForm
    else .error .unknownOperation
  | _ => .error .badForm

/-- One line of a program (30_encoding.md R76). -/
def parseLine (cs : List Char) : Except AsmError (Option HostOp) :=
  match tokens false [] cs with
  | some ts => parseTokens ts
  | none => .error .badString

/-- The lines of a text. -/
def splitLines : List Char → List (List Char)
  | [] => [[]]
  | c :: cs =>
    match splitLines cs with
    | [] => [[c]]
    | l :: ls => if c = '\n' then [] :: l :: ls else (c :: l) :: ls

/-- The operations of a program's lines, or the first error. -/
def parseLines : List (List Char) → Except AsmError (List HostOp)
  | [] => .ok []
  | l :: ls =>
    match parseLine l, parseLines ls with
    | .error e, _ => .error e
    | .ok _, .error e => .error e
    | .ok none, .ok ops => .ok ops
    | .ok (some op), .ok ops => .ok (op :: ops)

/-- A host program from its text (30_encoding.md R76, R77). -/
def parseProgram (text : String) : Except AsmError (List HostOp) := parseLines (splitLines text.toList)

end Sys2Proof.Machine
end

