-- ==== Sys2Proof/Machine/Bus.lean ====
section
/-! DEFINITION. The window on the platform's bus: offset 0x00 stands at bus address BASE, which is a
parameter (00_scope.md R11, 20_memory.md R50, R51). Log entry 7. -/

namespace Sys2Proof.Machine

/-- The bus address of an offset of the window (20_memory.md R50). -/
def busAddress (off : BitVec 8) : Nat := Config.base + off.toNat

/-- The offset a bus address names, none outside BASE to BASE + 0xFF (20_memory.md R50). -/
def windowOffset (addr : Nat) : Option (BitVec 8) :=
  if Config.base ≤ addr ∧ addr < Config.base + Config.window then
    some (BitVec.ofNat 8 (addr - Config.base))
  else none

/-- What the block sees of a bus access, none for one whose first address is outside its window. DESIGN CHOICE
(unsafe), log entry 17: the first address alone decides, so an access that begins below BASE and is wide enough
to reach into the window is not seen and not refused, where 20_memory.md R50 and R55 give it no offset. -/
def busEvent (a : BusAccess) : Option HostEvent :=
  match windowOffset a.addr, a.store with
  | some off, some v => some (.write off a.width v)
  | some off, none => some (.read off a.width)
  | none, _ => none

/-- The host issues a bus access after the events it has issued so far; outside the window it does not
reach the block. -/
def issueBus (a : BusAccess) (s : State) : State :=
  { s with pending := s.pending ++ (busEvent a).toList }

end Sys2Proof.Machine
end

