-- ==== Sys2Proof/Safety.lean ====
section
/-! DEFINITION. What claims about runs are stated in: the properties of 10_state.md R23 as one predicate,
the states a run from reset reaches, and the host programs that stay inside the interface. -/

namespace Sys2Proof.Machine

/-- The properties (I1) to (I8) of 10_state.md R23, each on one state. -/
structure State.Inv (s : State) : Prop where
  /-- (I1) KEY_VALID = 1 exactly when KEY_LEN is not 0, and then KEY_LEN is 10, 16 or 20. -/
  keyLen_valid : s.keyValid = true ↔ s.keyLen ≠ 0
  keyLen_legal : s.keyValid = true → s.keyLen.toNat ∈ [10, 16, 20]
  /-- (I2) Bytes of KEY at KEY_LEN and above are 0. -/
  key_tail : ∀ i : Fin 20, s.keyLen.toNat ≤ i.val → s.key[i] = 0
  /-- (I3) CODE_VALID = 0 implies cleared code outputs. -/
  cleared : s.codeValid = false →
    s.digest = Vector.replicate 20 0 ∧ s.trunc = 0 ∧ s.codeInt = 0 ∧ s.code = Vector.replicate 6 0
  /-- (I4) CODE_VALID = 1 implies TRUNC, CODE_INT and CODE follow from DIGEST. -/
  derived : s.codeValid = true →
    s.trunc = truncate s.digest ∧ s.codeInt.toNat = s.trunc.toNat % 1000000 ∧
      s.code = formatCode s.codeInt.toNat
  /-- (I5) CODE_VALID = 1 implies DIGEST is the HMAC of COUNTER under a key of a legal length. -/
  digest_counter : s.codeValid = true →
    ∃ k : List Byte, k.length ∈ [10, 16, 20] ∧ s.digest = hmacSha1 k (beBytes 8 s.counter.toNat)
  /-- (I5) While the key is still held, it is the key that was used. -/
  digest_key : s.codeValid = true → s.keyValid = true →
    s.digest = hmacSha1 (heldKey s) (beBytes 8 s.counter.toNat)
  /-- (I6) CTR_VALID = 0 implies COUNTER = 0. -/
  counter_invalid : s.ctrValid = false → s.counter = 0
  /-- (I7) TRUNC < 2^31 and CODE_INT < 10^6. -/
  trunc_lt : s.trunc.toNat < 2 ^ 31
  codeInt_lt : s.codeInt.toNat < 1000000
  /-- (I8) ERR is in {0, 1, 2, 3, 4, 5}. -/
  err_le : s.err.code.toNat ≤ 5

/-- A state that a run from reset reaches, with any host program. -/
inductive Reachable : State → Prop where
  | reset (program : List HostEvent) : Reachable { State.reset with pending := program }
  | step {s t : State} (h : Reachable s) (hs : step s = .next t) : Reachable t

/-- A host program that stays inside the interface of 20_memory.md R55. -/
def State.programInside (s : State) : Bool := s.pending.all HostEvent.wellFormed

end Sys2Proof.Machine
end

