-- ==== Sys2Proof/Certificates/Slice0/Obligations.lean ====
section
/-! DEFINITION. The statements for the provers, one `def Obligations.<Name> : Prop` each. A `stated` one
formalises a numbered rule of spec/ whole; a `derived` one rests on the sections OBLIGATIONS.json names. -/

open Sys2Proof Sys2Proof.Machine

/-! ### Encoding -/

/-- 30_encoding.md sections 1 to 3: no bit of a command word is dropped, and the decoder reads back every
instruction the encoding admits. -/
def Obligations.DecodeOfEncodeIsTheInstruction : Prop :=
  ∀ i : Instr, i.wellFormed = true → decodeWord (encode i) = i

/-- R72, the opcode map: with RSV = 0 the OP field selects the command, OP 0x06 to 0xFF is reserved, and the
six commands are the words 0 to 5. -/
def Obligations.OpFieldSelectsTheCommand : Prop :=
  (∀ w : Word, w.extractLsb' 8 24 = 0 →
    (w.extractLsb' 0 8 = 0x00 → decodeWord w = .nop) ∧
    (w.extractLsb' 0 8 = 0x01 → decodeWord w = .decode) ∧
    (w.extractLsb' 0 8 = 0x02 → decodeWord w = .counter) ∧
    (w.extractLsb' 0 8 = 0x03 → decodeWord w = .generate) ∧
    (w.extractLsb' 0 8 = 0x04 → decodeWord w = .totp) ∧
    (w.extractLsb' 0 8 = 0x05 → decodeWord w = .zeroize) ∧
    (0x06 ≤ (w.extractLsb' 0 8).toNat → decodeWord w = .illegal w)) ∧
  decodeWord 0x00000000 = .nop ∧ decodeWord 0x00000001 = .decode ∧ decodeWord 0x00000002 = .counter ∧
  decodeWord 0x00000003 = .generate ∧ decodeWord 0x00000004 = .totp ∧ decodeWord 0x00000005 = .zeroize

/-! ### The step -/

/-- R25: a 32-bit write of w to CMD runs the command w selects, CMD stores nothing and reads 0. The OP
field selects the command, and a word whose RSV field is not 0 selects none of the six. -/
def Obligations.CommandWriteRunsTheDecodedCommand : Prop :=
  (∀ (s : State) (w : Word) (rest : List HostEvent), s.pending = .write 0x04 4 w :: rest →
    step s = exec (decodeWord w) { s with pending := rest }) ∧
  (∀ w : Word, w.extractLsb' 8 24 ≠ 0 → decodeWord w = .illegal w) ∧
  (∀ w w' : Word, w.extractLsb' 8 24 = 0 → w'.extractLsb' 8 24 = 0 →
    w.extractLsb' 0 8 = w'.extractLsb' 0 8 → decodeWord w = decodeWord w') ∧
  (∀ (s : State) (rest : List HostEvent), s.pending = .read 0x04 4 :: rest →
    step s = .next { s with pending := rest, observed := s.observed ++ [0x00000000] })

/-- 70_reset_and_hazards.md section 1: a reset sets every field of S to its value of 10_state.md section 7,
whatever the state was. The host's own two lists stay (log entry 6, the model's choice). -/
def Obligations.ResetEventSetsEveryField : Prop :=
  ∀ (s : State) (rest : List HostEvent), s.pending = .reset :: rest →
    step s = .next { State.reset with pending := rest, observed := s.observed }

/-- R45: the reset value of every field of S, and what every register of the map reads after reset. -/
def Obligations.ResetValuesOfEveryField : Prop :=
  State.reset.secret = Vector.replicate 32 0 ∧ State.reset.secretLen = 0 ∧ State.reset.time = 0 ∧
  State.reset.counter = 0 ∧ State.reset.ctrValid = false ∧ State.reset.key = Vector.replicate 20 0 ∧
  State.reset.keyLen = 0 ∧ State.reset.keyValid = false ∧ State.reset.digest = Vector.replicate 20 0 ∧
  State.reset.trunc = 0 ∧ State.reset.codeInt = 0 ∧ State.reset.code = Vector.replicate 6 0 ∧
  State.reset.codeValid = false ∧ State.reset.err = .none ∧ State.reset.err.code = 0 ∧
  ∀ r : Reg, readReg r State.reset = if r = .ident then 0x48443036 else 0x00000000

/-- R58: at every aligned offset stands a register, a read of it returns what the register reads and changes
nothing of the block, whatever comes next, and read again at once it returns the same value. CMD returns 0 and
runs nothing. SECRET_LEN and the halves of COUNTER return what their fields hold. -/
def Obligations.ReadsHaveNoSideEffects : Prop :=
  (∀ off : BitVec 8, off.toNat % 4 = 0 → ∃ r : Reg, regAt off = some r) ∧
  (∀ (s : State) (off : BitVec 8) (r : Reg) (rest : List HostEvent), regAt off = some r →
    (s.pending = .read off 4 :: rest →
      step s = .next { s with pending := rest, observed := s.observed ++ [readReg r s] }) ∧
    (s.pending = .read off 4 :: .read off 4 :: rest →
      Host.Core.run core 2 s =
        .next { s with pending := rest, observed := s.observed ++ [readReg r s, readReg r s] })) ∧
  (∀ (s : State) (rest : List HostEvent),
    (s.pending = .read 0x04 4 :: rest →
      step s = .next { s with pending := rest, observed := s.observed ++ [0x00000000] }) ∧
    (s.pending = .read 0x0C 4 :: rest →
      step s = .next { s with pending := rest, observed := s.observed ++ [s.secretLen] }) ∧
    (s.pending = .read 0x38 4 :: rest →
      step s = .next { s with pending := rest, observed := s.observed ++ [s.counter.extractLsb' 0 32] }) ∧
    (s.pending = .read 0x3C 4 :: rest →
      step s = .next { s with pending := rest, observed := s.observed ++ [s.counter.extractLsb' 32 32] }))

/-- 20_memory.md section 3 and 70_reset_and_hazards.md section 5: a step never faults, and it stops only
at an access outside the interface, by name. -/
def Obligations.OnlyAccessesOutsideTheInterfaceStop : Prop :=
  ∀ s : State, (∀ f : Fault, step s ≠ .fault f) ∧
    (∀ r : Refusal, step s = .refused r ↔
      ∃ (off : BitVec 8) (width : Nat) (rest : List HostEvent), r = .outsideInterface off width ∧
        (width ≠ 4 ∨ off.toNat % 4 ≠ 0) ∧
        (s.pending = .read off width :: rest ∨ ∃ v : Word, s.pending = .write off width v :: rest))

/-- 70_reset_and_hazards.md section 5: a host program whose accesses are all inside the interface never
stops, from whatever state, and each step serves one event. -/
def Obligations.ProgramsInsideTheInterfaceNeverStop : Prop :=
  ∀ (s : State) (k : Nat), s.programInside = true →
    ∃ t : State, Host.Core.run core k s = .next t ∧ t.pending = s.pending.drop k

/-! ### The register window -/

/-- R24: IDENT reads 0x48443036, the bytes "HD06" packed big-endian, in every state, and ignores writes. -/
def Obligations.IdentIsConstant : Prop :=
  (∀ (s : State) (rest : List HostEvent), s.pending = .read 0x00 4 :: rest →
    step s = .next { s with pending := rest, observed := s.observed ++ [0x48443036] }) ∧
  (∀ (s : State) (v : Word) (rest : List HostEvent), s.pending = .write 0x00 4 v :: rest →
    step s = .next { s with pending := rest }) ∧
  (0x48443036 : Word) = packWord 0x48 0x44 0x30 0x36

/-- R26: the fields of STATUS bit by bit, the whole word as the rule's formula, its reset value, and that
writes are ignored. -/
def Obligations.StatusHoldsTheFlagsAndErr : Prop :=
  ∀ (s : State) (rest : List HostEvent),
    (s.pending = .read 0x08 4 :: rest →
      ∃ v : Word, step s = .next { s with pending := rest, observed := s.observed ++ [v] } ∧
        v.getLsbD 0 = false ∧ v.getLsbD 1 = s.keyValid ∧ v.getLsbD 2 = s.ctrValid ∧
        v.getLsbD 3 = s.codeValid ∧ v.extractLsb' 4 4 = 0 ∧ v.extractLsb' 8 4 = s.err.code ∧
        v.extractLsb' 12 20 = 0 ∧
        v.toNat = s.err.code.toNat * 256 + s.codeValid.toNat * 8 + s.ctrValid.toNat * 4
          + s.keyValid.toNat * 2) ∧
    (∀ v : Word, s.pending = .write 0x08 4 v :: rest → step s = .next { s with pending := rest }) ∧
    statusWord State.reset = 0

/-- R28: the byte lanes of SECRETk on a write and on a read, that a read returns the last value written, and
that a write changes nothing else. -/
def Obligations.SecretWordsHoldFourBytesEach : Prop :=
  ∀ (s : State) (k : Fin 8) (v : Word) (rest : List HostEvent),
    (s.pending = .write (BitVec.ofNat 8 (0x10 + 4 * k.val)) 4 v :: rest →
      ∃ b : Vector Byte 32, step s = .next { s with pending := rest, secret := b } ∧
        b[4 * k.val] = v.extractLsb' 24 8 ∧ b[4 * k.val + 1] = v.extractLsb' 16 8 ∧
        b[4 * k.val + 2] = v.extractLsb' 8 8 ∧ b[4 * k.val + 3] = v.extractLsb' 0 8 ∧
        (∀ i : Fin 32, i.val / 4 ≠ k.val → b[i] = s.secret[i]) ∧
        readReg (.secret k) { s with pending := rest, secret := b } = v) ∧
    (s.pending = .read (BitVec.ofNat 8 (0x10 + 4 * k.val)) 4 :: rest →
      ∃ u : Word, step s = .next { s with pending := rest, observed := s.observed ++ [u] } ∧
        u.extractLsb' 24 8 = s.secret[4 * k.val] ∧ u.extractLsb' 16 8 = s.secret[4 * k.val + 1] ∧
        u.extractLsb' 8 8 = s.secret[4 * k.val + 2] ∧ u.extractLsb' 0 8 = s.secret[4 * k.val + 3])

/-- 10_state.md section 2, the TIME registers: a write of one half leaves the other half, and every other field,
unchanged. -/
def Obligations.TimeHalvesAreWrittenApart : Prop :=
  ∀ (s : State) (v : Word) (rest : List HostEvent),
    (s.pending = .write 0x30 4 v :: rest →
      ∃ x : BitVec 64, step s = .next { s with pending := rest, time := x } ∧
        x.extractLsb' 0 32 = v ∧ x.extractLsb' 32 32 = s.time.extractLsb' 32 32) ∧
    (s.pending = .write 0x34 4 v :: rest →
      ∃ x : BitVec 64, step s = .next { s with pending := rest, time := x } ∧
        x.extractLsb' 32 32 = v ∧ x.extractLsb' 0 32 = s.time.extractLsb' 0 32) ∧
    (s.pending = .read 0x30 4 :: rest →
      step s = .next { s with pending := rest, observed := s.observed ++ [s.time.extractLsb' 0 32] }) ∧
    (s.pending = .read 0x34 4 :: rest →
      step s = .next { s with pending := rest, observed := s.observed ++ [s.time.extractLsb' 32 32] })

/-- R33: a host write to a half of COUNTER writes that half, sets CTR_VALID and clears the code outputs, and
does not change ERR or anything else. -/
def Obligations.CounterWritesClearTheCodeOutputs : Prop :=
  ∀ (s : State) (v : Word) (rest : List HostEvent),
    (s.pending = .write 0x38 4 v :: rest →
      ∃ x : BitVec 64, x.extractLsb' 0 32 = v ∧ x.extractLsb' 32 32 = s.counter.extractLsb' 32 32 ∧
        step s = .next { s with
          pending := rest, counter := x, ctrValid := true, digest := Vector.replicate 20 0, trunc := 0,
          codeInt := 0, code := Vector.replicate 6 0, codeValid := false }) ∧
    (s.pending = .write 0x3C 4 v :: rest →
      ∃ x : BitVec 64, x.extractLsb' 32 32 = v ∧ x.extractLsb' 0 32 = s.counter.extractLsb' 0 32 ∧
        step s = .next { s with
          pending := rest, counter := x, ctrValid := true, digest := Vector.replicate 20 0, trunc := 0,
          codeInt := 0, code := Vector.replicate 6 0, codeValid := false })

/-- R38: a read of an offset from 0x68 to 0xFC returns 0, and a write there has no effect. -/
def Obligations.ReservedOffsetsReadZeroAndIgnoreWrites : Prop :=
  ∀ (s : State) (off : BitVec 8) (rest : List HostEvent), off.toNat % 4 = 0 → 0x68 ≤ off.toNat →
    (s.pending = .read off 4 :: rest →
      step s = .next { s with pending := rest, observed := s.observed ++ [0x00000000] }) ∧
    (∀ v : Word, s.pending = .write off 4 v :: rest → step s = .next { s with pending := rest })

/-- R34: TRUNC reads the 31-bit value zero-extended, so bit 31 reads 0, and ignores writes. -/
def Obligations.TruncRegisterReadsZeroExtended : Prop :=
  ∀ (s : State) (rest : List HostEvent),
    (s.pending = .read 0x44 4 :: rest →
      ∃ v : Word, step s = .next { s with pending := rest, observed := s.observed ++ [v] } ∧
        v.toNat = s.trunc.toNat ∧ v.getLsbD 31 = false) ∧
    (∀ v : Word, s.pending = .write 0x44 4 v :: rest → step s = .next { s with pending := rest })

/-- R36: the lanes of CODE0 and CODE1, that CODE holds ASCII digits when CODE_VALID = 1 (in a state that
meets the invariant), and that writes are ignored. CODE[0] is the most significant digit. -/
def Obligations.CodeRegistersHoldTheDigits : Prop :=
  (∀ (s : State) (rest : List HostEvent),
    (s.pending = .read 0x4C 4 :: rest →
      ∃ v : Word, step s = .next { s with pending := rest, observed := s.observed ++ [v] } ∧
        v.toNat = s.code[0].toNat * 2 ^ 24 + s.code[1].toNat * 2 ^ 16 + s.code[2].toNat * 2 ^ 8
          + s.code[3].toNat) ∧
    (s.pending = .read 0x50 4 :: rest →
      ∃ v : Word, step s = .next { s with pending := rest, observed := s.observed ++ [v] } ∧
        v.toNat = s.code[4].toNat * 2 ^ 24 + s.code[5].toNat * 2 ^ 16 ∧ v.extractLsb' 0 16 = 0) ∧
    (∀ v : Word, s.pending = .write 0x4C 4 v :: rest ∨ s.pending = .write 0x50 4 v :: rest →
      step s = .next { s with pending := rest })) ∧
  (∀ s : State, s.Inv → s.codeValid = true →
    (∀ i : Fin 6, 0x30 ≤ s.code[i].toNat ∧ s.code[i].toNat ≤ 0x39) ∧
    s.codeInt.toNat = (s.code[0].toNat - 0x30) * 100000 + (s.code[1].toNat - 0x30) * 10000
      + (s.code[2].toNat - 0x30) * 1000 + (s.code[3].toNat - 0x30) * 100
      + (s.code[4].toNat - 0x30) * 10 + (s.code[5].toNat - 0x30))

/-- 10_state.md section 2, the read-only registers KEY_LEN, CODE_INT and DIGESTk: what they read, and that
writes are ignored. -/
def Obligations.ResultRegistersAreReadOnly : Prop :=
  ∀ (s : State) (rest : List HostEvent),
    (s.pending = .read 0x40 4 :: rest →
      ∃ v : Word, step s = .next { s with pending := rest, observed := s.observed ++ [v] } ∧
        v.toNat = s.keyLen.toNat) ∧
    (s.pending = .read 0x48 4 :: rest →
      ∃ v : Word, step s = .next { s with pending := rest, observed := s.observed ++ [v] } ∧
        v.toNat = s.codeInt.toNat) ∧
    (∀ k : Fin 5, s.pending = .read (BitVec.ofNat 8 (0x54 + 4 * k.val)) 4 :: rest →
      ∃ v : Word, step s = .next { s with pending := rest, observed := s.observed ++ [v] } ∧
        v.toNat = intBe ((s.digest.toList.drop (4 * k.val)).take 4)) ∧
    (∀ (v : Word) (off : BitVec 8), s.pending = .write off 4 v :: rest →
      off = 0x40 ∨ off = 0x48 ∨ (∃ k : Fin 5, off = BitVec.ofNat 8 (0x54 + 4 * k.val)) →
      step s = .next { s with pending := rest })

/-- 20_memory.md section 4 and 10_state.md section 2: the frame of a host write to any register but CMD. It
completes; ERR, the key and the host's values stay; a read-write register then reads the value written; every
other register reads as before, unless the write is to a half of COUNTER, where TIME, SECRET and SECRET_LEN do. -/
def Obligations.HostWriteFrame : Prop :=
  ∀ (s : State) (r : Reg) (v : Word) (rest : List HostEvent), r ≠ .cmd →
    s.pending = .write (regOffset r) 4 v :: rest →
    ∃ t : State, step s = .next t ∧ t.pending = rest ∧ t.observed = s.observed ∧ t.err = s.err ∧
      t.key = s.key ∧ t.keyLen = s.keyLen ∧ t.keyValid = s.keyValid ∧
      ((r = .secretLen ∨ (∃ k, r = .secret k) ∨ r = .timeLo ∨ r = .timeHi ∨ r = .counterLo ∨
        r = .counterHi) → readReg r t = v) ∧
      (r ≠ .counterLo → r ≠ .counterHi → ∀ r' : Reg, r' ≠ r → readReg r' t = readReg r' s) ∧
      ((r = .counterLo ∨ r = .counterHi) →
        t.secret = s.secret ∧ t.secretLen = s.secretLen ∧ t.time = s.time)

/-- 20_memory.md section 1: bus address BASE + off is offset off of the window, and an access whose address is
outside BASE to BASE + 0xFF does not reach the block. BASE is a multiple of 256. That this holds of an access
that begins below BASE and is wide enough to reach into the window is the model's choice (log entry 17). -/
def Obligations.WindowStandsAtBase : Prop :=
  Config.base % 256 = 0 ∧
  (∀ off : BitVec 8, windowOffset (busAddress off) = some off) ∧
  (∀ addr : Nat, addr < Config.base ∨ Config.base + 0xFF < addr → windowOffset addr = none) ∧
  (∀ (a : BusAccess) (s : State), a.addr < Config.base ∨ Config.base + 0xFF < a.addr → issueBus a s = s) ∧
  (∀ (off : BitVec 8) (width : Nat) (s : State),
    (issueBus ⟨busAddress off, width, none⟩ s).pending = s.pending ++ [.read off width] ∧
    ∀ v : Word,
      (issueBus ⟨busAddress off, width, some v⟩ s).pending = s.pending ++ [.write off width v])

/-! ### DECODE -/

/-- 40_decode.md section 2: DECODE completes where the secret decodes. The key and its length are written, the
code outputs cleared, and nothing else changes. -/
def Obligations.DecodeStoresTheKey : Prop :=
  ∀ (s : State) (k : List Byte), decodeSecret s.secret s.secretLen = .ok k →
    ∃ key : Vector Byte 20, (∀ i : Fin 20, key[i] = k.getD i.val 0) ∧
      exec .decode s = .next { s with
        digest := Vector.replicate 20 0, trunc := 0, codeInt := 0, code := Vector.replicate 6 0,
        codeValid := false, key := key, keyLen := BitVec.ofNat 8 k.length, keyValid := true, err := .none }

/-- 40_decode.md section 2: where the secret does not decode, DECODE erases any key held before, clears the
code outputs and records the error, 1 or 2. -/
def Obligations.FailedDecodeErasesTheKey : Prop :=
  ∀ (s : State) (e : ErrorKind), decodeSecret s.secret s.secretLen = .error e →
    (e = .invalidSecretLength ∨ e = .base32DecodeError) ∧
    exec .decode s = .next { s with
      digest := Vector.replicate 20 0, trunc := 0, codeInt := 0, code := Vector.replicate 6 0,
      codeValid := false, key := Vector.replicate 20 0, keyLen := 0, keyValid := false, err := e }

/-- R90: a SECRET_LEN outside 16, 26 and 32, counted in bytes, fails with InvalidSecretLength whatever SECRET
holds, for DecodeSecret and so for the command. -/
def Obligations.OtherSecretLengthsAreRejected : Prop :=
  ∀ (secret : Vector Byte 32) (n : Word), n.toNat ≠ 16 → n.toNat ≠ 26 → n.toNat ≠ 32 →
    decodeSecret secret n = .error .invalidSecretLength

/-- 40_decode.md section 1: the key is be_m(V >> r), where V is the sum of the 5-bit values by their places, m the
number of whole bytes and r the bits left over; m is 10, 16 or 20. -/
def Obligations.KeyIsTheBitStringOfTheValues : Prop :=
  ∀ (secret : Vector Byte 32) (n : Word) (v : Nat → Nat),
    n.toNat = 16 ∨ n.toNat = 26 ∨ n.toNat = 32 →
    (∀ i : Fin 32, i.val < n.toNat → base32Val (normalise secret[i]) = some (v i.val)) →
    ∃ k : List Byte, decodeSecret secret n = .ok k ∧
      k.length = (if n.toNat = 16 then 10 else if n.toNat = 26 then 16 else 20) ∧
      intBe k = (∑ i ∈ Finset.range n.toNat, v i * 2 ^ (5 * (n.toNat - 1 - i)))
        / 2 ^ (5 * n.toNat - 8 * k.length)

/-- 40_decode.md sections 1 and 3: once the length is accepted, decoding fails exactly when some byte below
SECRET_LEN is outside the alphabet, with Base32DecodeError, and the bytes at SECRET_LEN and above do not matter. -/
def Obligations.DecodingFailsExactlyOnANonAlphabetByte : Prop :=
  ∀ (secret : Vector Byte 32) (n : Word), n.toNat = 16 ∨ n.toNat = 26 ∨ n.toNat = 32 →
    (decodeSecret secret n = .error .base32DecodeError ↔
      ∃ i : Fin 32, i.val < n.toNat ∧ base32Val (normalise secret[i]) = none) ∧
    (decodeSecret secret n ≠ .error .base32DecodeError → ∃ k : List Byte, decodeSecret secret n = .ok k) ∧
    (∀ other : Vector Byte 32, (∀ i : Fin 32, i.val < n.toNat → other[i] = secret[i]) →
      decodeSecret other n = decodeSecret secret n)

/-- 40_decode.md section 1 (the alphabet) and section 3: the letters of both cases and the digits 2 to 7 have
their values, and every other byte, '=' and 0x80 to 0xFF among them, has none. -/
def Obligations.AlphabetValues : Prop :=
  ∀ c : Byte,
    (0x41 ≤ c.toNat ∧ c.toNat ≤ 0x5A → base32Val (normalise c) = some (c.toNat - 0x41)) ∧
    (0x61 ≤ c.toNat ∧ c.toNat ≤ 0x7A → base32Val (normalise c) = some (c.toNat - 0x61)) ∧
    (0x32 ≤ c.toNat ∧ c.toNat ≤ 0x37 → base32Val (normalise c) = some (c.toNat - 0x32 + 26)) ∧
    (c.toNat < 0x32 ∨ (0x37 < c.toNat ∧ c.toNat < 0x41) ∨ (0x5A < c.toNat ∧ c.toNat < 0x61) ∨
      0x7A < c.toNat → base32Val (normalise c) = none)

/-- R94: of a 26-byte secret the last two bits are discarded and not checked; of a 16- or 32-byte secret no bit
is discarded. -/
def Obligations.TrailingBitsOfA26ByteSecretAreIgnored : Prop :=
  (∀ (a b : Vector Byte 32) (x y : Nat), (∀ i : Fin 32, i.val < 25 → a[i] = b[i]) →
    base32Val (normalise a[25]) = some x → base32Val (normalise b[25]) = some y → x / 4 = y / 4 →
    decodeSecret a 26 = decodeSecret b 26) ∧
  (∀ (a b : Vector Byte 32) (n : Word) (k : List Byte), n = 16 ∨ n = 32 →
    decodeSecret a n = .ok k → decodeSecret b n = .ok k →
    ∀ i : Fin 32, i.val < n.toNat → base32Val (normalise a[i]) = base32Val (normalise b[i]))

/-! ### COUNTER -/

/-- 41_counter.md section 2: COUNTER completes at every time from the epoch on. COUNTER takes the floor of TIME
by 30, the code outputs are cleared, and nothing else changes. -/
def Obligations.CounterTakesTheTimeStep : Prop :=
  ∀ s : State, 0 ≤ s.time.toInt →
    exec .counter s = .next { s with
      digest := Vector.replicate 20 0, trunc := 0, codeInt := 0, code := Vector.replicate 6 0,
      codeValid := false, counter := BitVec.ofInt 64 (s.time.toInt / 30), ctrValid := true, err := .none }

/-- 41_counter.md section 2: a time before the epoch drops the counter and records ClockError. -/
def Obligations.CounterRejectsTimesBeforeTheEpoch : Prop :=
  ∀ s : State, s.time.toInt < 0 →
    exec .counter s = .next { s with
      digest := Vector.replicate 20 0, trunc := 0, codeInt := 0, code := Vector.replicate 6 0,
      codeValid := false, counter := 0, ctrValid := false, err := .clockError }

/-- R111: for t ≥ 0 the counter is floor(t / 30), which is truncation toward zero too, it lies in
[0, 307445734561825860], and that bound is the counter of the last time. -/
def Obligations.DerivedCounterIsTheFloorAndBounded : Prop :=
  (∀ time : BitVec 64, 0 ≤ time.toInt → ∃ c : BitVec 64, deriveCounter time = .ok c ∧
    (c.toNat : Int) = time.toInt / 30 ∧ (c.toNat : Int) = time.toInt.tdiv 30 ∧
    c.toNat ≤ 307445734561825860) ∧
  deriveCounter 0x7FFFFFFFFFFFFFFF = .ok 0x0444444444444444 ∧
  (0x0444444444444444 : BitVec 64).toNat = 307445734561825860

/-- 41_counter.md section 2, step monotonicity: two times from the epoch on have the same counter exactly when
they fall in the same 30 seconds, and then the same code for the same key. -/
def Obligations.SameStepSameCounterAndCode : Prop :=
  ∀ (t1 t2 : BitVec 64) (c1 c2 : BitVec 64), 0 ≤ t1.toInt → t1.toInt < t2.toInt →
    deriveCounter t1 = .ok c1 → deriveCounter t2 = .ok c2 →
    (t1.toInt / 30 = t2.toInt / 30 ↔ c1 = c2) ∧ c1.toNat ≤ c2.toNat ∧
    (c1 = c2 → ∀ k : List Byte, generateCode k c1 = generateCode k c2)

/-! ### SHA-1 and HMAC-SHA1 -/

/-- R121: the padded message, with the least number of zero bytes that makes whole blocks. -/
def Obligations.PaddingMakesWholeBlocks : Prop :=
  ∀ m : List Byte, ∃ z : Nat,
    sha1Pad m = m ++ [0x80] ++ List.replicate z 0 ++ beBytes 8 (8 * m.length) ∧
    (m.length + 1 + z) % 64 = 56 ∧ (∀ z' : Nat, (m.length + 1 + z') % 64 = 56 → z ≤ z') ∧
    (sha1Pad m).length % 64 = 0

/-- R124: the message schedule is the block's sixteen words and then the recurrence. -/
def Obligations.MessageScheduleMeetsTheRecurrence : Prop :=
  ∀ m : List Word, m.length = 16 →
    (messageSchedule m).length = 80 ∧
    (∀ t : Nat, t ≤ 15 → (messageSchedule m).getD t 0 = m.getD t 0) ∧
    (∀ t : Nat, 16 ≤ t → t ≤ 79 → (messageSchedule m).getD t 0 =
      ((messageSchedule m).getD (t - 3) 0 ^^^ (messageSchedule m).getD (t - 8) 0 ^^^
        (messageSchedule m).getD (t - 14) 0 ^^^ (messageSchedule m).getD (t - 16) 0).rotateLeft 1)

/-- R126: Compress runs eighty rounds, each as the rule's five assignments, and adds the result to the hash. -/
def Obligations.CompressRunsEightyRounds : Prop :=
  ∀ (h : HashWords) (block : List Byte),
    ∃ r : HashWords,
      r = (List.range 80).foldl (fun x t =>
        ⟨x.a.rotateLeft 5 + sha1F t x.b x.c x.d + x.e + sha1K t
          + (messageSchedule (blockWords block)).getD t 0, x.a, x.b.rotateLeft 30, x.c, x.d⟩) h ∧
      sha1Compress h block = ⟨h.a + r.a, h.b + r.b, h.c + r.c, h.d + r.d, h.e + r.e⟩

/-- R127: the hash starts from the initial value and compresses the blocks of the padded message in order. -/
def Obligations.HashCompressesTheBlocksInOrder : Prop :=
  ∀ m : List Byte, sha1Hash m =
    (List.range ((sha1Pad m).length / 64)).foldl
      (fun h i => sha1Compress h (((sha1Pad m).drop (64 * i)).take 64))
      ⟨0x67452301, 0xEFCDAB89, 0x98BADCFE, 0x10325476, 0xC3D2E1F0⟩

/-- 95_test_vectors.md V-H1, V-H2, V-H5 to V-H7. -/
def Obligations.Sha1AndHmacVectors : Prop :=
  (sha1 []).toList = beBytes 20 0xda39a3ee5e6b4b0d3255bfef95601890afd80709 ∧
  (sha1 [0x61, 0x62, 0x63]).toList = beBytes 20 0xa9993e364706816aba3e25717850c26c9cd0d89d ∧
  (hmacSha1 (beBytes 20 0x3132333435363738393031323334353637383930) (beBytes 8 0)).toList =
    beBytes 20 0xcc93cf18508d94934c64b65d8ba7667fb7cde4b0 ∧
  (hmacSha1 (beBytes 10 0x48656c6c6f21deadbeef) (beBytes 8 1)).toList =
    beBytes 20 0x853f79b6650a9e3c5a81f179a209253bcbbe7402 ∧
  (hmacSha1 (beBytes 16 0x000102030405060708090a0b0c0d0e0f) (beBytes 8 0)).toList =
    beBytes 20 0x1fd2e3bc14b85645f5e77b7770bf9a996bc61c23

/-- 42_hmac_sha1.md section 2: keys that differ only by trailing zero bytes, up to one block, give the same
digest. -/
def Obligations.TrailingZeroBytesOfAKeyDoNotCount : Prop :=
  ∀ (k m : List Byte) (z : Nat), k.length + z ≤ 64 →
    hmacSha1 (k ++ List.replicate z 0) m = hmacSha1 k m

/-! ### GENERATE -/

/-- R141: Truncate is the big-endian number of the four digest bytes at the offset in the low 4 bits of the last
byte, without its top bit. -/
def Obligations.TruncateReadsFourBytesAtTheOffset : Prop :=
  ∀ dg : Vector Byte 20,
    (truncate dg).toNat = intBe ((dg.toList.drop (dg[19].toNat % 16)).take 4) % 2 ^ 31

/-- 43_generate.md section 1: the top bit of the first byte read, and the high nibble of the last byte, never
reach the result. -/
def Obligations.TruncateIgnoresTheMaskedBits : Prop :=
  ∀ (dg : Vector Byte 20) (o : Fin 16), o.val = dg[19].toNat % 16 →
    truncate (dg.set o.val (dg[o.val] ^^^ 0x80)) = truncate dg ∧
    ∀ b : Byte, b.toNat % 16 = o.val → truncate (dg.set 19 b) = truncate dg

/-- R143: Format writes the six decimal digits in ASCII, the most significant first, leading zeros kept. -/
def Obligations.FormatWritesSixDecimalDigits : Prop :=
  (∀ x : Nat, x < 1000000 →
    (∀ k : Fin 6, (formatCode x)[k].toNat = 0x30 + x / 10 ^ (5 - k.val) % 10) ∧
    x = (formatCode x).toList.foldl (fun acc d => acc * 10 + (d.toNat - 0x30)) 0) ∧
  (formatCode 512).toList = [0x30, 0x30, 0x30, 0x35, 0x31, 0x32] ∧
  (formatCode 42).toList = [0x30, 0x30, 0x30, 0x30, 0x34, 0x32]

/-- 43_generate.md section 2: GENERATE completes where a key and a counter are held. The digest, its truncation,
the reduced number and the digits are written, and nothing else changes. -/
def Obligations.GenerateWritesTheCode : Prop :=
  ∀ s : State, s.keyValid = true → s.ctrValid = true →
    ∃ (dg : Vector Byte 20) (ci : BitVec 20),
      dg = hmacSha1 (s.key.toList.take s.keyLen.toNat) (beBytes 8 s.counter.toNat) ∧
      ci.toNat = (truncate dg).toNat % 1000000 ∧
      exec .generate s = .next { s with
        digest := dg, trunc := truncate dg, codeInt := ci, code := formatCode ci.toNat, codeValid := true,
        err := .none }

/-- 43_generate.md section 2: without a key or without a counter GENERATE records SequenceError and clears the
code outputs. -/
def Obligations.GenerateNeedsAKeyAndACounter : Prop :=
  ∀ s : State, s.keyValid = false ∨ s.ctrValid = false →
    exec .generate s = .next { s with
      digest := Vector.replicate 20 0, trunc := 0, codeInt := 0, code := Vector.replicate 6 0,
      codeValid := false, err := .sequenceError }

/-- 70_reset_and_hazards.md section 3: after a write of one half of COUNTER, COUNTER_LO or COUNTER_HI, GENERATE uses
the new half with the old other half, and raises no error where a key is held. -/
def Obligations.GenerateUsesATornCounter : Prop :=
  ∀ (s : State) (off : BitVec 8) (v : Word) (rest : List HostEvent), s.keyValid = true →
    off = 0x38 ∨ off = 0x3C →
    s.pending = .write off 4 v :: .write 0x04 4 0x00000003 :: rest →
    ∃ t : State, Host.Core.run core 2 s = .next t ∧ t.err = .none ∧ t.codeValid = true ∧
      (off = 0x38 → t.counter.toNat = s.counter.toNat / 2 ^ 32 * 2 ^ 32 + v.toNat) ∧
      (off = 0x3C → t.counter.toNat = v.toNat * 2 ^ 32 + s.counter.toNat % 2 ^ 32) ∧
      t.digest = hmacSha1 (s.key.toList.take s.keyLen.toNat) (beBytes 8 t.counter.toNat) ∧
      t.pending = rest

/-! ### TOTP -/

/-- 44_control.md section 2: TOTP completes where the secret decodes and the time is not before the epoch. The
counter and the code outputs are written, the key is erased, and nothing else changes. -/
def Obligations.TotpWritesTheCodeAndErasesTheKey : Prop :=
  ∀ (s : State) (k : List Byte), decodeSecret s.secret s.secretLen = .ok k → 0 ≤ s.time.toInt →
    ∃ (c : BitVec 64) (dg : Vector Byte 20) (ci : BitVec 20),
      (c.toNat : Int) = s.time.toInt / 30 ∧ dg = hmacSha1 k (beBytes 8 c.toNat) ∧
      ci.toNat = (truncate dg).toNat % 1000000 ∧
      exec .totp s = .next { s with
        counter := c, ctrValid := true, key := Vector.replicate 20 0, keyLen := 0, keyValid := false,
        digest := dg, trunc := truncate dg, codeInt := ci, code := formatCode ci.toNat, codeValid := true,
        err := .none }

/-- 44_control.md section 2, the failures of TOTP: a bad secret leaves COUNTER and CTR_VALID as they were, a time
before the epoch drops them, and either way the key is erased and the code outputs are cleared. -/
def Obligations.TotpFailuresLeaveNoOutput : Prop :=
  (∀ (s : State) (e : ErrorKind), decodeSecret s.secret s.secretLen = .error e →
    exec .totp s = .next { s with
      digest := Vector.replicate 20 0, trunc := 0, codeInt := 0, code := Vector.replicate 6 0,
      codeValid := false, key := Vector.replicate 20 0, keyLen := 0, keyValid := false, err := e }) ∧
  (∀ (s : State) (k : List Byte), decodeSecret s.secret s.secretLen = .ok k → s.time.toInt < 0 →
    exec .totp s = .next { s with
      digest := Vector.replicate 20 0, trunc := 0, codeInt := 0, code := Vector.replicate 6 0,
      codeValid := false, key := Vector.replicate 20 0, keyLen := 0, keyValid := false, counter := 0,
      ctrValid := false, err := .clockError })

/-- 44_control.md section 2: TOTP is DECODE, COUNTER, GENERATE and zeroize_key() in one command, aborted after the
first that fails. -/
def Obligations.TotpIsTheSequenceOfTheStages : Prop :=
  ∀ s s1 s2 s3 : State, exec .decode s = .next s1 → exec .counter s1 = .next s2 →
    exec .generate s2 = .next s3 →
    exec .totp s = .next (if s1.err ≠ .none then s1
      else if s2.err ≠ .none then
        { s2 with key := Vector.replicate 20 0, keyLen := 0, keyValid := false }
      else { s3 with key := Vector.replicate 20 0, keyLen := 0, keyValid := false })

/-- 44_control.md section 2 and 10_state.md section 1: TOTP's result depends only on SECRET[0..n], SECRET_LEN and
TIME. Whatever else two states hold, the commands leave the same key, code outputs and error, and, where the
secret decodes, the same counter. -/
def Obligations.TotpDependsOnItsInputsOnly : Prop :=
  ∀ s s' t t' : State, s.secretLen = s'.secretLen → s.time = s'.time →
    (∀ i : Fin 32, i.val < s.secretLen.toNat → s.secret[i] = s'.secret[i]) →
    exec .totp s = .next t → exec .totp s' = .next t' →
    t.key = t'.key ∧ t.keyLen = t'.keyLen ∧ t.keyValid = t'.keyValid ∧ t.digest = t'.digest ∧
    t.trunc = t'.trunc ∧ t.codeInt = t'.codeInt ∧ t.code = t'.code ∧ t.codeValid = t'.codeValid ∧
    t.err = t'.err ∧
    (t.err = .none ∨ t.err = .clockError → t.counter = t'.counter ∧ t.ctrValid = t'.ctrValid)

/-! ### ZEROIZE, NOP, ILLEGAL -/

/-- R170: ZEROIZE erases SECRET, SECRET_LEN, the key and the code outputs, sets ERR to 0 and keeps TIME, COUNTER
and CTR_VALID; in the reset state it changes nothing; after it KEY_LEN, every SECRET word and, without a counter,
STATUS[3:1] read 0. -/
def Obligations.ZeroizeErasesSecretAndKey : Prop :=
  (∀ s : State, exec .zeroize s = .next { s with
    secret := Vector.replicate 32 0, secretLen := 0, key := Vector.replicate 20 0, keyLen := 0,
    keyValid := false, digest := Vector.replicate 20 0, trunc := 0, codeInt := 0,
    code := Vector.replicate 6 0, codeValid := false, err := .none }) ∧
  exec .zeroize State.reset = .next State.reset ∧
  (∀ s t : State, exec .zeroize s = .next t → readReg .keyLen t = 0 ∧
    (∀ k : Fin 8, readReg (.secret k) t = 0) ∧
    (s.ctrValid = false → (readReg .status t).extractLsb' 1 3 = 0))

/-- R171: NOP sets ERR to 0 and changes nothing else; it is the only command that does that in every state; the
word 0 is a NOP; after it STATUS[11:8] reads 0 and the valid bits keep their values. -/
def Obligations.NopClearsErrOnly : Prop :=
  (∀ s : State, exec .nop s = .next { s with err := .none }) ∧
  (∀ i : Instr, (∀ s : State, exec i s = .next { s with err := .none }) → i = .nop) ∧
  decodeWord 0x00000000 = .nop ∧
  (∀ s t : State, s.err = .base32DecodeError → exec .nop s = .next t →
    (readReg .status t).extractLsb' 8 4 = 0 ∧
    (readReg .status t).extractLsb' 1 3 = (readReg .status s).extractLsb' 1 3)

/-- R172: an illegal word written to CMD sets ERR to 5 and changes nothing else; from reset 0x00000106 makes
STATUS read 0x00000500. -/
def Obligations.IllegalWordsSetErrFiveOnly : Prop :=
  (∀ (w : Word) (s : State), exec (.illegal w) s = .next { s with err := .illegalCommand }) ∧
  (∀ (w : Word) (s : State) (rest : List HostEvent),
    w.extractLsb' 8 24 ≠ 0 ∨ 0x06 ≤ (w.extractLsb' 0 8).toNat → s.pending = .write 0x04 4 w :: rest →
    step s = .next { s with pending := rest, err := .illegalCommand }) ∧
  ErrorKind.illegalCommand.code = 5 ∧
  (∃ t : State, Host.Core.run core 2
    { State.reset with pending := [.write 0x04 4 0x00000106, .read 0x08 4] } = .next t ∧
      t.observed = [0x00000500])

/-! ### Errors -/

/-- R182: every command leaves in ERR 0 or the code of the error it raised, and what it leaves does not depend on
what ERR held before; a host write to a register and a read leave ERR as it was. -/
def Obligations.ErrDescribesTheLastCommandOnly : Prop :=
  (∀ (i : Instr) (s : State) (e : ErrorKind), exec i { s with err := e } = exec i s) ∧
  (∀ (i : Instr) (s t : State), exec i s = .next t → t.err =
    match i with
    | .nop => .none
    | .zeroize => .none
    | .illegal _ => .illegalCommand
    | .decode => (match decodeSecret s.secret s.secretLen with | .ok _ => .none | .error e => e)
    | .counter => if s.time.toInt < 0 then .clockError else .none
    | .generate => if s.keyValid = true ∧ s.ctrValid = true then .none else .sequenceError
    | .totp => (match decodeSecret s.secret s.secretLen with
      | .ok _ => if s.time.toInt < 0 then .clockError else .none
      | .error e => e)) ∧
  (∀ (s t : State) (off : BitVec 8) (width : Nat) (rest : List HostEvent),
    s.pending = .read off width :: rest ∨
      (∃ v : Word, off ≠ 0x04 ∧ s.pending = .write off width v :: rest) →
    step s = .next t → t.err = s.err)

/-- R185: one command reports one code, and the first check in the rule's order wins: an illegal word, the length,
the characters, the clock; SequenceError comes from GENERATE alone, which raises no other. -/
def Obligations.FirstFailingCheckIsReported : Prop :=
  (∀ (w : Word) (s t : State), exec (.illegal w) s = .next t → t = { s with err := .illegalCommand }) ∧
  (∀ (i : Instr) (s t : State), i = .decode ∨ i = .totp → exec i s = .next t →
    (s.secretLen.toNat ∉ [16, 26, 32] → t.err = .invalidSecretLength ∧ t.counter = s.counter) ∧
    (s.secretLen.toNat ∈ [16, 26, 32] →
      (∃ j : Fin 32, j.val < s.secretLen.toNat ∧ base32Val (normalise s.secret[j]) = none) →
      t.err = .base32DecodeError ∧ t.counter = s.counter)) ∧
  (∀ s t : State, exec .totp s = .next t → s.secretLen.toNat ∈ [16, 26, 32] →
    (∀ j : Fin 32, j.val < s.secretLen.toNat → base32Val (normalise s.secret[j]) ≠ none) →
    s.time.toInt < 0 → t.err = .clockError) ∧
  (∀ (i : Instr) (s t : State), exec i s = .next t →
    (t.err = .sequenceError → i = .generate) ∧
    (i = .generate → t.err = .none ∨ t.err = .sequenceError)) ∧
  (∀ s t : State, s.secretLen = 15 → s.time = 0xFFFFFFFFFFFFFFFF → exec .totp s = .next t →
    t.err = .invalidSecretLength ∧ t.counter = s.counter)

/-! ### Frames and whole-machine rules -/

/-- The fields each command does not touch (40_decode.md section 2, 41_counter.md section 2, 43_generate.md section
2, 44_control.md sections 2 and 3), whether it succeeds or fails. -/
def Obligations.CommandFrames : Prop :=
  ∀ (i : Instr) (s t : State), exec i s = .next t →
    t.pending = s.pending ∧ t.observed = s.observed ∧ t.time = s.time ∧
    (i ≠ .zeroize → t.secret = s.secret ∧ t.secretLen = s.secretLen) ∧
    (i = .decode ∨ i = .generate ∨ i = .zeroize → t.counter = s.counter ∧ t.ctrValid = s.ctrValid) ∧
    (i = .counter ∨ i = .generate → t.key = s.key ∧ t.keyLen = s.keyLen ∧ t.keyValid = s.keyValid) ∧
    (i = .nop ∨ (∃ w, i = .illegal w) → t = { s with err := t.err })

/-- 10_state.md section 6: the key is overwritten with zeros by a failed DECODE, by every TOTP, by ZEROIZE and by
reset. -/
def Obligations.KeyIsOverwrittenOnEveryExitPath : Prop :=
  ∀ s t : State,
    (exec .totp s = .next t ∨ exec .zeroize s = .next t ∨
      (exec .decode s = .next t ∧ t.err ≠ .none) ∨
      (∃ rest, s.pending = .reset :: rest ∧ step s = .next t)) →
    t.key = Vector.replicate 20 0 ∧ t.keyLen = 0 ∧ t.keyValid = false

/-- 10_state.md section 2 and 60_exceptions.md section 5: KEY is hidden. Two states that differ in KEY alone take,
at every event but the command GENERATE, steps to states that differ in KEY alone: the host reads the same values. -/
def Obligations.KeyIsHiddenFromTheHost : Prop :=
  ∀ (s t : State) (key : Vector Byte 20),
    (∀ (w : Word) (rest : List HostEvent), s.pending = .write 0x04 4 w :: rest →
      decodeWord w ≠ .generate) →
    step s = .next t →
    ∃ key' : Vector Byte 20, step { s with key := key } = .next { t with key := key' }

/-- 10_state.md section 1: the properties (I1) to (I8) hold after reset, with any host program. -/
def Obligations.InvariantHoldsAfterReset : Prop :=
  ∀ program : List HostEvent, State.Inv { State.reset with pending := program }

/-- 10_state.md section 1: every step keeps the properties (I1) to (I8), from every state that has them. -/
def Obligations.EveryStepKeepsTheInvariant : Prop :=
  ∀ s t : State, s.Inv → step s = .next t → t.Inv

/-- 10_state.md section 1: the properties (I1) to (I8) hold in every state that a run from reset reaches, with any
host program. -/
def Obligations.EveryReachableStateMeetsTheInvariant : Prop :=
  ∀ s : State, Reachable s → s.Inv

/-- 10_state.md section 1 (I5): a step that leaves CODE_VALID = 1 has not changed COUNTER, unless it ran TOTP, which
set both. -/
def Obligations.CounterStaysWhileTheCodeIsValid : Prop :=
  ∀ s t : State, step s = .next t → t.codeValid = true →
    t.counter = s.counter ∨
      ∃ (w : Word) (rest : List HostEvent), s.pending = .write 0x04 4 w :: rest ∧ decodeWord w = .totp

/-! ### Host programs -/

/-- 30_encoding.md section 4: the nine writes of ld.secret leave the string, padded with zeros, in SECRET and its
length in SECRET_LEN, and change nothing else. -/
def Obligations.LdSecretLoadsTheSecret : Prop :=
  ∀ (s : State) (str : List Byte) (rest : List HostEvent), str.length ≤ 32 →
    s.pending = expandOp (.ldSecret str) ++ rest →
    ∃ b : Vector Byte 32, (∀ i : Fin 32, b[i] = str.getD i.val 0) ∧
      Host.Core.run core 9 s =
        .next { s with secret := b, secretLen := BitVec.ofNat 32 str.length, pending := rest }

/-- 30_encoding.md section 4: ld.time writes TIME with the number's 64-bit pattern, and ld.counter COUNTER, whose
valid bit it sets and whose stale code it clears. -/
def Obligations.LdTimeAndLdCounterLoadBothHalves : Prop :=
  (∀ (s : State) (t : Int) (rest : List HostEvent), -(2 ^ 63) ≤ t → t < 2 ^ 63 →
    s.pending = expandOp (.ldTime t) ++ rest →
    ∃ x : BitVec 64, x.toInt = t ∧ Host.Core.run core 2 s = .next { s with time := x, pending := rest }) ∧
  (∀ (s : State) (c : Nat) (rest : List HostEvent), c < 2 ^ 64 →
    s.pending = expandOp (.ldCounter c) ++ rest →
    ∃ x : BitVec 64, x.toNat = c ∧ Host.Core.run core 2 s = .next { s with
      counter := x, ctrValid := true, digest := Vector.replicate 20 0, trunc := 0, codeInt := 0,
      code := Vector.replicate 6 0, codeValid := false, pending := rest })
end

