-- ==== Sys2Proof/Laws/State.lean ====
section
/-! SUPPORT. One lemma per field of State and shared operation of Machine/Ops.lean: what the field holds
after the operation. -/

namespace Sys2Proof.Machine

/-! ### clearCodeOutputs: clear_code_outputs() (44_control.md R160) -/

@[simp] theorem clearCodeOutputs_secret (s : State) : (clearCodeOutputs s).secret = s.secret := rfl
@[simp] theorem clearCodeOutputs_secretLen (s : State) : (clearCodeOutputs s).secretLen = s.secretLen := rfl
@[simp] theorem clearCodeOutputs_time (s : State) : (clearCodeOutputs s).time = s.time := rfl
@[simp] theorem clearCodeOutputs_counter (s : State) : (clearCodeOutputs s).counter = s.counter := rfl
@[simp] theorem clearCodeOutputs_ctrValid (s : State) : (clearCodeOutputs s).ctrValid = s.ctrValid := rfl
@[simp] theorem clearCodeOutputs_key (s : State) : (clearCodeOutputs s).key = s.key := rfl
@[simp] theorem clearCodeOutputs_keyLen (s : State) : (clearCodeOutputs s).keyLen = s.keyLen := rfl
@[simp] theorem clearCodeOutputs_keyValid (s : State) : (clearCodeOutputs s).keyValid = s.keyValid := rfl
@[simp] theorem clearCodeOutputs_digest (s : State) : (clearCodeOutputs s).digest = Vector.replicate 20 0 := rfl
@[simp] theorem clearCodeOutputs_trunc (s : State) : (clearCodeOutputs s).trunc = 0 := rfl
@[simp] theorem clearCodeOutputs_codeInt (s : State) : (clearCodeOutputs s).codeInt = 0 := rfl
@[simp] theorem clearCodeOutputs_code (s : State) : (clearCodeOutputs s).code = Vector.replicate 6 0 := rfl
@[simp] theorem clearCodeOutputs_codeValid (s : State) : (clearCodeOutputs s).codeValid = false := rfl
@[simp] theorem clearCodeOutputs_err (s : State) : (clearCodeOutputs s).err = s.err := rfl
@[simp] theorem clearCodeOutputs_pending (s : State) : (clearCodeOutputs s).pending = s.pending := rfl
@[simp] theorem clearCodeOutputs_observed (s : State) : (clearCodeOutputs s).observed = s.observed := rfl

/-! ### zeroizeKey: zeroize_key() (44_control.md R161) -/

@[simp] theorem zeroizeKey_secret (s : State) : (zeroizeKey s).secret = s.secret := rfl
@[simp] theorem zeroizeKey_secretLen (s : State) : (zeroizeKey s).secretLen = s.secretLen := rfl
@[simp] theorem zeroizeKey_time (s : State) : (zeroizeKey s).time = s.time := rfl
@[simp] theorem zeroizeKey_counter (s : State) : (zeroizeKey s).counter = s.counter := rfl
@[simp] theorem zeroizeKey_ctrValid (s : State) : (zeroizeKey s).ctrValid = s.ctrValid := rfl
@[simp] theorem zeroizeKey_key (s : State) : (zeroizeKey s).key = Vector.replicate 20 0 := rfl
@[simp] theorem zeroizeKey_keyLen (s : State) : (zeroizeKey s).keyLen = 0 := rfl
@[simp] theorem zeroizeKey_keyValid (s : State) : (zeroizeKey s).keyValid = false := rfl
@[simp] theorem zeroizeKey_digest (s : State) : (zeroizeKey s).digest = s.digest := rfl
@[simp] theorem zeroizeKey_trunc (s : State) : (zeroizeKey s).trunc = s.trunc := rfl
@[simp] theorem zeroizeKey_codeInt (s : State) : (zeroizeKey s).codeInt = s.codeInt := rfl
@[simp] theorem zeroizeKey_code (s : State) : (zeroizeKey s).code = s.code := rfl
@[simp] theorem zeroizeKey_codeValid (s : State) : (zeroizeKey s).codeValid = s.codeValid := rfl
@[simp] theorem zeroizeKey_err (s : State) : (zeroizeKey s).err = s.err := rfl
@[simp] theorem zeroizeKey_pending (s : State) : (zeroizeKey s).pending = s.pending := rfl
@[simp] theorem zeroizeKey_observed (s : State) : (zeroizeKey s).observed = s.observed := rfl

/-! ### raise: the recording of an error (60_exceptions.md R182) -/

@[simp] theorem raise_secret (e : ErrorKind) (s : State) : (raise e s).secret = s.secret := rfl
@[simp] theorem raise_secretLen (e : ErrorKind) (s : State) : (raise e s).secretLen = s.secretLen := rfl
@[simp] theorem raise_time (e : ErrorKind) (s : State) : (raise e s).time = s.time := rfl
@[simp] theorem raise_counter (e : ErrorKind) (s : State) : (raise e s).counter = s.counter := rfl
@[simp] theorem raise_ctrValid (e : ErrorKind) (s : State) : (raise e s).ctrValid = s.ctrValid := rfl
@[simp] theorem raise_key (e : ErrorKind) (s : State) : (raise e s).key = s.key := rfl
@[simp] theorem raise_keyLen (e : ErrorKind) (s : State) : (raise e s).keyLen = s.keyLen := rfl
@[simp] theorem raise_keyValid (e : ErrorKind) (s : State) : (raise e s).keyValid = s.keyValid := rfl
@[simp] theorem raise_digest (e : ErrorKind) (s : State) : (raise e s).digest = s.digest := rfl
@[simp] theorem raise_trunc (e : ErrorKind) (s : State) : (raise e s).trunc = s.trunc := rfl
@[simp] theorem raise_codeInt (e : ErrorKind) (s : State) : (raise e s).codeInt = s.codeInt := rfl
@[simp] theorem raise_code (e : ErrorKind) (s : State) : (raise e s).code = s.code := rfl
@[simp] theorem raise_codeValid (e : ErrorKind) (s : State) : (raise e s).codeValid = s.codeValid := rfl
@[simp] theorem raise_err (e : ErrorKind) (s : State) : (raise e s).err = e := rfl
@[simp] theorem raise_pending (e : ErrorKind) (s : State) : (raise e s).pending = s.pending := rfl
@[simp] theorem raise_observed (e : ErrorKind) (s : State) : (raise e s).observed = s.observed := rfl

/-! ### succeed: the good end of a command (60_exceptions.md R182) -/

@[simp] theorem succeed_secret (s : State) : (succeed s).secret = s.secret := rfl
@[simp] theorem succeed_secretLen (s : State) : (succeed s).secretLen = s.secretLen := rfl
@[simp] theorem succeed_time (s : State) : (succeed s).time = s.time := rfl
@[simp] theorem succeed_counter (s : State) : (succeed s).counter = s.counter := rfl
@[simp] theorem succeed_ctrValid (s : State) : (succeed s).ctrValid = s.ctrValid := rfl
@[simp] theorem succeed_key (s : State) : (succeed s).key = s.key := rfl
@[simp] theorem succeed_keyLen (s : State) : (succeed s).keyLen = s.keyLen := rfl
@[simp] theorem succeed_keyValid (s : State) : (succeed s).keyValid = s.keyValid := rfl
@[simp] theorem succeed_digest (s : State) : (succeed s).digest = s.digest := rfl
@[simp] theorem succeed_trunc (s : State) : (succeed s).trunc = s.trunc := rfl
@[simp] theorem succeed_codeInt (s : State) : (succeed s).codeInt = s.codeInt := rfl
@[simp] theorem succeed_code (s : State) : (succeed s).code = s.code := rfl
@[simp] theorem succeed_codeValid (s : State) : (succeed s).codeValid = s.codeValid := rfl
@[simp] theorem succeed_err (s : State) : (succeed s).err = .none := rfl
@[simp] theorem succeed_pending (s : State) : (succeed s).pending = s.pending := rfl
@[simp] theorem succeed_observed (s : State) : (succeed s).observed = s.observed := rfl

/-! ### storeKey: a decoded key is stored (40_decode.md R97) -/

@[simp] theorem storeKey_secret (k : List Byte) (s : State) : (storeKey k s).secret = s.secret := rfl
@[simp] theorem storeKey_secretLen (k : List Byte) (s : State) : (storeKey k s).secretLen = s.secretLen := rfl
@[simp] theorem storeKey_time (k : List Byte) (s : State) : (storeKey k s).time = s.time := rfl
@[simp] theorem storeKey_counter (k : List Byte) (s : State) : (storeKey k s).counter = s.counter := rfl
@[simp] theorem storeKey_ctrValid (k : List Byte) (s : State) : (storeKey k s).ctrValid = s.ctrValid := rfl
@[simp] theorem storeKey_key (k : List Byte) (s : State) : (storeKey k s).key = padTo 20 k := rfl
@[simp] theorem storeKey_keyLen (k : List Byte) (s : State) : (storeKey k s).keyLen = BitVec.ofNat 8 k.length := rfl
@[simp] theorem storeKey_keyValid (k : List Byte) (s : State) : (storeKey k s).keyValid = true := rfl
@[simp] theorem storeKey_digest (k : List Byte) (s : State) : (storeKey k s).digest = s.digest := rfl
@[simp] theorem storeKey_trunc (k : List Byte) (s : State) : (storeKey k s).trunc = s.trunc := rfl
@[simp] theorem storeKey_codeInt (k : List Byte) (s : State) : (storeKey k s).codeInt = s.codeInt := rfl
@[simp] theorem storeKey_code (k : List Byte) (s : State) : (storeKey k s).code = s.code := rfl
@[simp] theorem storeKey_codeValid (k : List Byte) (s : State) : (storeKey k s).codeValid = s.codeValid := rfl
@[simp] theorem storeKey_err (k : List Byte) (s : State) : (storeKey k s).err = s.err := rfl
@[simp] theorem storeKey_pending (k : List Byte) (s : State) : (storeKey k s).pending = s.pending := rfl
@[simp] theorem storeKey_observed (k : List Byte) (s : State) : (storeKey k s).observed = s.observed := rfl

/-! ### storeCounter: a counter is stored (41_counter.md R113) -/

@[simp] theorem storeCounter_secret (c : BitVec 64) (s : State) : (storeCounter c s).secret = s.secret := rfl
@[simp] theorem storeCounter_secretLen (c : BitVec 64) (s : State) : (storeCounter c s).secretLen = s.secretLen := rfl
@[simp] theorem storeCounter_time (c : BitVec 64) (s : State) : (storeCounter c s).time = s.time := rfl
@[simp] theorem storeCounter_counter (c : BitVec 64) (s : State) : (storeCounter c s).counter = c := rfl
@[simp] theorem storeCounter_ctrValid (c : BitVec 64) (s : State) : (storeCounter c s).ctrValid = true := rfl
@[simp] theorem storeCounter_key (c : BitVec 64) (s : State) : (storeCounter c s).key = s.key := rfl
@[simp] theorem storeCounter_keyLen (c : BitVec 64) (s : State) : (storeCounter c s).keyLen = s.keyLen := rfl
@[simp] theorem storeCounter_keyValid (c : BitVec 64) (s : State) : (storeCounter c s).keyValid = s.keyValid := rfl
@[simp] theorem storeCounter_digest (c : BitVec 64) (s : State) : (storeCounter c s).digest = s.digest := rfl
@[simp] theorem storeCounter_trunc (c : BitVec 64) (s : State) : (storeCounter c s).trunc = s.trunc := rfl
@[simp] theorem storeCounter_codeInt (c : BitVec 64) (s : State) : (storeCounter c s).codeInt = s.codeInt := rfl
@[simp] theorem storeCounter_code (c : BitVec 64) (s : State) : (storeCounter c s).code = s.code := rfl
@[simp] theorem storeCounter_codeValid (c : BitVec 64) (s : State) : (storeCounter c s).codeValid = s.codeValid := rfl
@[simp] theorem storeCounter_err (c : BitVec 64) (s : State) : (storeCounter c s).err = s.err := rfl
@[simp] theorem storeCounter_pending (c : BitVec 64) (s : State) : (storeCounter c s).pending = s.pending := rfl
@[simp] theorem storeCounter_observed (c : BitVec 64) (s : State) : (storeCounter c s).observed = s.observed := rfl

/-! ### dropCounter: the counter is dropped (41_counter.md R113) -/

@[simp] theorem dropCounter_secret (s : State) : (dropCounter s).secret = s.secret := rfl
@[simp] theorem dropCounter_secretLen (s : State) : (dropCounter s).secretLen = s.secretLen := rfl
@[simp] theorem dropCounter_time (s : State) : (dropCounter s).time = s.time := rfl
@[simp] theorem dropCounter_counter (s : State) : (dropCounter s).counter = 0 := rfl
@[simp] theorem dropCounter_ctrValid (s : State) : (dropCounter s).ctrValid = false := rfl
@[simp] theorem dropCounter_key (s : State) : (dropCounter s).key = s.key := rfl
@[simp] theorem dropCounter_keyLen (s : State) : (dropCounter s).keyLen = s.keyLen := rfl
@[simp] theorem dropCounter_keyValid (s : State) : (dropCounter s).keyValid = s.keyValid := rfl
@[simp] theorem dropCounter_digest (s : State) : (dropCounter s).digest = s.digest := rfl
@[simp] theorem dropCounter_trunc (s : State) : (dropCounter s).trunc = s.trunc := rfl
@[simp] theorem dropCounter_codeInt (s : State) : (dropCounter s).codeInt = s.codeInt := rfl
@[simp] theorem dropCounter_code (s : State) : (dropCounter s).code = s.code := rfl
@[simp] theorem dropCounter_codeValid (s : State) : (dropCounter s).codeValid = s.codeValid := rfl
@[simp] theorem dropCounter_err (s : State) : (dropCounter s).err = s.err := rfl
@[simp] theorem dropCounter_pending (s : State) : (dropCounter s).pending = s.pending := rfl
@[simp] theorem dropCounter_observed (s : State) : (dropCounter s).observed = s.observed := rfl

/-! ### clearSecret: the secret is erased (44_control.md R170) -/

@[simp] theorem clearSecret_secret (s : State) : (clearSecret s).secret = Vector.replicate 32 0 := rfl
@[simp] theorem clearSecret_secretLen (s : State) : (clearSecret s).secretLen = 0 := rfl
@[simp] theorem clearSecret_time (s : State) : (clearSecret s).time = s.time := rfl
@[simp] theorem clearSecret_counter (s : State) : (clearSecret s).counter = s.counter := rfl
@[simp] theorem clearSecret_ctrValid (s : State) : (clearSecret s).ctrValid = s.ctrValid := rfl
@[simp] theorem clearSecret_key (s : State) : (clearSecret s).key = s.key := rfl
@[simp] theorem clearSecret_keyLen (s : State) : (clearSecret s).keyLen = s.keyLen := rfl
@[simp] theorem clearSecret_keyValid (s : State) : (clearSecret s).keyValid = s.keyValid := rfl
@[simp] theorem clearSecret_digest (s : State) : (clearSecret s).digest = s.digest := rfl
@[simp] theorem clearSecret_trunc (s : State) : (clearSecret s).trunc = s.trunc := rfl
@[simp] theorem clearSecret_codeInt (s : State) : (clearSecret s).codeInt = s.codeInt := rfl
@[simp] theorem clearSecret_code (s : State) : (clearSecret s).code = s.code := rfl
@[simp] theorem clearSecret_codeValid (s : State) : (clearSecret s).codeValid = s.codeValid := rfl
@[simp] theorem clearSecret_err (s : State) : (clearSecret s).err = s.err := rfl
@[simp] theorem clearSecret_pending (s : State) : (clearSecret s).pending = s.pending := rfl
@[simp] theorem clearSecret_observed (s : State) : (clearSecret s).observed = s.observed := rfl

/-! ### storeCode: a code is stored (43_generate.md R147) -/

@[simp] theorem storeCode_secret (r : CodeResult) (s : State) : (storeCode r s).secret = s.secret := rfl
@[simp] theorem storeCode_secretLen (r : CodeResult) (s : State) : (storeCode r s).secretLen = s.secretLen := rfl
@[simp] theorem storeCode_time (r : CodeResult) (s : State) : (storeCode r s).time = s.time := rfl
@[simp] theorem storeCode_counter (r : CodeResult) (s : State) : (storeCode r s).counter = s.counter := rfl
@[simp] theorem storeCode_ctrValid (r : CodeResult) (s : State) : (storeCode r s).ctrValid = s.ctrValid := rfl
@[simp] theorem storeCode_key (r : CodeResult) (s : State) : (storeCode r s).key = s.key := rfl
@[simp] theorem storeCode_keyLen (r : CodeResult) (s : State) : (storeCode r s).keyLen = s.keyLen := rfl
@[simp] theorem storeCode_keyValid (r : CodeResult) (s : State) : (storeCode r s).keyValid = s.keyValid := rfl
@[simp] theorem storeCode_digest (r : CodeResult) (s : State) : (storeCode r s).digest = r.digest := rfl
@[simp] theorem storeCode_trunc (r : CodeResult) (s : State) : (storeCode r s).trunc = r.trunc := rfl
@[simp] theorem storeCode_codeInt (r : CodeResult) (s : State) : (storeCode r s).codeInt = r.codeInt := rfl
@[simp] theorem storeCode_code (r : CodeResult) (s : State) : (storeCode r s).code = r.code := rfl
@[simp] theorem storeCode_codeValid (r : CodeResult) (s : State) : (storeCode r s).codeValid = true := rfl
@[simp] theorem storeCode_err (r : CodeResult) (s : State) : (storeCode r s).err = s.err := rfl
@[simp] theorem storeCode_pending (r : CodeResult) (s : State) : (storeCode r s).pending = s.pending := rfl
@[simp] theorem storeCode_observed (r : CodeResult) (s : State) : (storeCode r s).observed = s.observed := rfl

/-! ### observe: a read returned a value (70_reset_and_hazards.md R214) -/

@[simp] theorem observe_secret (v : Word) (s : State) : (observe v s).secret = s.secret := rfl
@[simp] theorem observe_secretLen (v : Word) (s : State) : (observe v s).secretLen = s.secretLen := rfl
@[simp] theorem observe_time (v : Word) (s : State) : (observe v s).time = s.time := rfl
@[simp] theorem observe_counter (v : Word) (s : State) : (observe v s).counter = s.counter := rfl
@[simp] theorem observe_ctrValid (v : Word) (s : State) : (observe v s).ctrValid = s.ctrValid := rfl
@[simp] theorem observe_key (v : Word) (s : State) : (observe v s).key = s.key := rfl
@[simp] theorem observe_keyLen (v : Word) (s : State) : (observe v s).keyLen = s.keyLen := rfl
@[simp] theorem observe_keyValid (v : Word) (s : State) : (observe v s).keyValid = s.keyValid := rfl
@[simp] theorem observe_digest (v : Word) (s : State) : (observe v s).digest = s.digest := rfl
@[simp] theorem observe_trunc (v : Word) (s : State) : (observe v s).trunc = s.trunc := rfl
@[simp] theorem observe_codeInt (v : Word) (s : State) : (observe v s).codeInt = s.codeInt := rfl
@[simp] theorem observe_code (v : Word) (s : State) : (observe v s).code = s.code := rfl
@[simp] theorem observe_codeValid (v : Word) (s : State) : (observe v s).codeValid = s.codeValid := rfl
@[simp] theorem observe_err (v : Word) (s : State) : (observe v s).err = s.err := rfl
@[simp] theorem observe_pending (v : Word) (s : State) : (observe v s).pending = s.pending := rfl
@[simp] theorem observe_observed (v : Word) (s : State) : (observe v s).observed = s.observed ++ [v] := rfl

/-! ### resetBlock: reset (10_state.md R45) -/

@[simp] theorem resetBlock_secret (s : State) : (resetBlock s).secret = Vector.replicate 32 0 := rfl
@[simp] theorem resetBlock_secretLen (s : State) : (resetBlock s).secretLen = 0 := rfl
@[simp] theorem resetBlock_time (s : State) : (resetBlock s).time = 0 := rfl
@[simp] theorem resetBlock_counter (s : State) : (resetBlock s).counter = 0 := rfl
@[simp] theorem resetBlock_ctrValid (s : State) : (resetBlock s).ctrValid = false := rfl
@[simp] theorem resetBlock_key (s : State) : (resetBlock s).key = Vector.replicate 20 0 := rfl
@[simp] theorem resetBlock_keyLen (s : State) : (resetBlock s).keyLen = 0 := rfl
@[simp] theorem resetBlock_keyValid (s : State) : (resetBlock s).keyValid = false := rfl
@[simp] theorem resetBlock_digest (s : State) : (resetBlock s).digest = Vector.replicate 20 0 := rfl
@[simp] theorem resetBlock_trunc (s : State) : (resetBlock s).trunc = 0 := rfl
@[simp] theorem resetBlock_codeInt (s : State) : (resetBlock s).codeInt = 0 := rfl
@[simp] theorem resetBlock_code (s : State) : (resetBlock s).code = Vector.replicate 6 0 := rfl
@[simp] theorem resetBlock_codeValid (s : State) : (resetBlock s).codeValid = false := rfl
@[simp] theorem resetBlock_err (s : State) : (resetBlock s).err = .none := rfl
@[simp] theorem resetBlock_pending (s : State) : (resetBlock s).pending = s.pending := rfl
@[simp] theorem resetBlock_observed (s : State) : (resetBlock s).observed = s.observed := rfl

end Sys2Proof.Machine
end

