-- ==== Sys2Proof/Laws/Bytes.lean ====
section
/-! SUPPORT. The byte strings of 00_scope.md R13 and the buffers made from them: lengths, be_n and int_be
undo each other, and what a padded buffer holds. -/

namespace Sys2Proof.Machine

@[simp] theorem beBytes_length (n v : Nat) : (beBytes n v).length = n := by
  induction n with
  | zero => rfl
  | succ n ih => simp [beBytes, ih]

@[simp] theorem intBe_nil : intBe [] = 0 := rfl

theorem intBe_append_singleton (s : List Byte) (b : Byte) : intBe (s ++ [b]) = intBe s * 256 + b.toNat := by
  simp [intBe]

theorem intBe_append (s t : List Byte) : intBe (s ++ t) = intBe s * 256 ^ t.length + intBe t := by
  induction t using List.reverseRecOn with
  | nil => simp
  | append_singleton t b ih =>
    rw [← List.append_assoc, intBe_append_singleton, intBe_append_singleton, ih]
    simp [pow_succ]
    ring

theorem intBe_cons (b : Byte) (s : List Byte) : intBe (b :: s) = b.toNat * 256 ^ s.length + intBe s := by
  have := intBe_append [b] s
  simpa [intBe] using this

theorem intBe_lt (s : List Byte) : intBe s < 256 ^ s.length := by
  induction s with
  | nil => simp
  | cons b s ih =>
    have hb := b.isLt
    rw [intBe_cons, List.length_cons, pow_succ]
    nlinarith [Nat.pow_pos (n := s.length) (show 0 < 256 by decide)]

/-- int_be undoes be_n up to the bytes that fit. -/
theorem intBe_beBytes (n v : Nat) : intBe (beBytes n v) = v % 256 ^ n := by
  induction n with
  | zero => simp [beBytes, Nat.mod_one]
  | succ n ih =>
    rw [beBytes, intBe_cons, ih, beBytes_length, BitVec.toNat_ofNat, pow_succ 256 n,
      Nat.mod_mul (a := 256 ^ n)]
    ring

@[simp] theorem padTo_getElem {n : Nat} (s : List Byte) (i : Nat) (h : i < n) :
    (padTo n s)[i] = s.getD i 0 := by
  by_cases hi : i < s.length
  · simp [padTo, hi, List.getD]
  · simp [padTo, List.getElem_append, hi, List.getD]

/-- A string that fits is the front of its buffer. -/
theorem padTo_take {n : Nat} (s : List Byte) (h : s.length ≤ n) : (padTo n s).toList.take s.length = s := by
  simp [padTo, List.take_take, h]

/-- The key a command uses after a decode is the decoded key. -/
theorem heldKey_storeKey (k : List Byte) (s : State) (h : k.length ≤ 20) : heldKey (storeKey k s) = k := by
  have : k.length % 256 = k.length := Nat.mod_eq_of_lt (by omega)
  simp [heldKey, this, padTo_take k h]

end Sys2Proof.Machine
end

