-- ==== Sys2Proof/Laws/Base32.lean ====
section
/-! SUPPORT. DecodeSecret (40_decode.md): the values of a secret, the bit string they make, and everything the
function can answer. -/

namespace Sys2Proof.Machine

/-- A base32 value has five bits. -/
theorem base32Val_lt {u : Byte} {v : Nat} (h : base32Val u = some v) : v < 32 := by
  unfold base32Val at h
  split at h
  · cases h; omega
  · split at h
    · cases h; omega
    · cases h

/-- A secret has values exactly when each of its bytes has one, and then they are those, in order. -/
theorem base32Values_eq_some_iff (cs : List Byte) (vs : List Nat) :
    base32Values cs = some vs ↔ cs.map (fun c => base32Val (normalise c)) = vs.map some := by
  induction cs generalizing vs with
  | nil => cases vs <;> simp [base32Values]
  | cons c cs ih =>
    cases vs with
    | nil =>
      simp only [base32Values]
      split <;> simp
    | cons v vs =>
      simp only [base32Values, List.map_cons, List.cons.injEq, ← ih]
      split
      · rename_i h1 h2; simp [h1, h2]
      · rename_i h
        refine ⟨fun e => by simp at e, fun ⟨e1, e2⟩ => absurd e2 (h v vs e1)⟩

theorem base32Values_length {cs : List Byte} {vs : List Nat} (h : base32Values cs = some vs) :
    vs.length = cs.length := by
  have := congrArg List.length ((base32Values_eq_some_iff cs vs).mp h)
  simpa using this.symm

theorem base32Values_eq_none_iff (cs : List Byte) :
    base32Values cs = none ↔ ∃ c ∈ cs, base32Val (normalise c) = none := by
  induction cs with
  | nil => simp [base32Values]
  | cons c cs ih =>
    simp only [base32Values, List.exists_mem_cons_iff, ← ih]
    cases h1 : base32Val (normalise c) <;> cases h2 : base32Values cs <;> simp

theorem bitString_append_singleton (vs : List Nat) (v : Nat) : bitString (vs ++ [v]) = bitString vs * 32 + v := by
  simp [bitString]

/-- V fits its 5n bits (40_decode.md R93). -/
theorem bitString_lt (vs : List Nat) (h : ∀ v ∈ vs, v < 32) : bitString vs < 32 ^ vs.length := by
  induction vs using List.reverseRecOn with
  | nil => simp [bitString]
  | append_singleton vs v ih =>
    have h1 := ih fun u hu => h u (by simp [hu])
    have h2 := h v (by simp)
    rw [bitString_append_singleton, List.length_append, List.length_singleton, pow_succ]
    omega

/-- Everything DecodeSecret can answer (40_decode.md R90 to R96). -/
theorem decodeSecret_cases (secret : Vector Byte 32) (n : Word) :
    (n.toNat ∉ [16, 26, 32] ∧ decodeSecret secret n = .error .invalidSecretLength) ∨
    (n.toNat ∈ [16, 26, 32] ∧ base32Values (secret.toList.take n.toNat) = none ∧
      decodeSecret secret n = .error .base32DecodeError) ∨
    (n.toNat ∈ [16, 26, 32] ∧ ∃ vs, base32Values (secret.toList.take n.toNat) = some vs ∧
      decodeSecret secret n = .ok (beBytes (5 * n.toNat / 8)
        (bitString vs >>> (5 * n.toNat - 8 * (5 * n.toNat / 8))))) := by
  by_cases h : n.toNat ∈ [16, 26, 32]
  · refine .inr ?_
    cases e : base32Values (secret.toList.take n.toNat) with
    | none => exact .inl ⟨h, rfl, by simp only [decodeSecret, Config.secretLengths, if_pos h, e]⟩
    | some vs => exact .inr ⟨h, vs, rfl, by simp only [decodeSecret, Config.secretLengths, if_pos h, e]⟩
  · exact .inl ⟨h, if_neg h⟩

/-- The decoded key has 10, 16 or 20 bytes (40_decode.md R95). -/
theorem decodeSecret_ok_length {secret : Vector Byte 32} {n : Word} {k : List Byte}
    (h : decodeSecret secret n = .ok k) :
    n.toNat ∈ [16, 26, 32] ∧ k.length = 5 * n.toNat / 8 ∧ k.length ∈ [10, 16, 20] := by
  rcases decodeSecret_cases secret n with ⟨_, e⟩ | ⟨_, _, e⟩ | ⟨hn, vs, _, e⟩
  · rw [e] at h; cases h
  · rw [e] at h; cases h
  · rw [e] at h
    cases h
    refine ⟨hn, by simp, ?_⟩
    simp only [List.mem_cons, List.not_mem_nil, or_false] at hn
    rcases hn with hn | hn | hn <;> simp [hn]

/-- DecodeSecret depends on SECRET[0..n] alone (40_decode.md R96). -/
theorem decodeSecret_congr {a b : Vector Byte 32} {n : Word}
    (h : ∀ i : Fin 32, i.val < n.toNat → a[i] = b[i]) : decodeSecret a n = decodeSecret b n := by
  have e : a.toList.take n.toNat = b.toList.take n.toNat := by
    apply List.ext_getElem (by simp)
    intro i h1 h2
    have h3 : i < 32 ∧ i < n.toNat := by simpa [and_comm] using h1
    have := h ⟨i, h3.1⟩ h3.2
    simpa using this
  simp [decodeSecret, e]

end Sys2Proof.Machine
end

