-- ==== Sys2Proof/Laws/Clock.lean ====
section
/-! SUPPORT. DeriveCounter (41_counter.md): everything the function can answer. -/

namespace Sys2Proof.Machine

/-- Before the epoch DeriveCounter fails (41_counter.md R110). -/
theorem deriveCounter_neg {time : BitVec 64} (h : time.toInt < 0) : deriveCounter time = .error .clockError := by
  simp [deriveCounter, h]

/-- From the epoch on DeriveCounter answers the floor of the time by 30, which fits (41_counter.md R111). -/
theorem deriveCounter_nonneg {time : BitVec 64} (h : 0 ≤ time.toInt) :
    ∃ c : BitVec 64, deriveCounter time = .ok c ∧ (c.toNat : Int) = time.toInt / 30 := by
  refine ⟨BitVec.ofNat 64 (time.toInt.toNat / 30), by simp [deriveCounter, h, Config.step], ?_⟩
  have h1 : time.toInt < 2 ^ 63 := BitVec.toInt_lt
  have h2 : (time.toInt.toNat : Int) = time.toInt := Int.toNat_of_nonneg h
  rw [BitVec.toNat_ofNat, Nat.mod_eq_of_lt (by omega)]
  omega

end Sys2Proof.Machine
end

