-- ==== Sys2Proof/Laws/Decode.lean ====
section
/-! SUPPORT. The decoder: what a word decodes to, by its two fields, and that no bit of a word is lost. -/

namespace Sys2Proof

theorem cmdOp_toNat (w : Word) : (cmdOp w).toNat = w.toNat % 256 := by
  simp [cmdOp, BitVec.extractLsb'_toNat]

theorem cmdRsv_toNat (w : Word) : (cmdRsv w).toNat = w.toNat / 256 := by
  have := w.isLt
  simp [cmdRsv, BitVec.extractLsb'_toNat, Nat.shiftRight_eq_div_pow]
  omega

/-- RSV = 0 exactly when the word is its OP field (30_encoding.md R70). -/
theorem cmdRsv_eq_zero_iff (w : Word) : cmdRsv w = 0 ↔ w.toNat < 256 := by
  rw [← BitVec.toNat_inj, cmdRsv_toNat]
  simp

/-- Everything decodeWord can answer (30_encoding.md R74). -/
theorem decodeWord_cases (w : Word) :
    (w = 0 ∧ decodeWord w = .nop) ∨ (w = 1 ∧ decodeWord w = .decode) ∨
    (w = 2 ∧ decodeWord w = .counter) ∨ (w = 3 ∧ decodeWord w = .generate) ∨
    (w = 4 ∧ decodeWord w = .totp) ∨ (w = 5 ∧ decodeWord w = .zeroize) ∨
    (6 ≤ w.toNat ∧ decodeWord w = .illegal w) := by
  by_cases h : w.toNat < 6
  · have hw : w = 0 ∨ w = 1 ∨ w = 2 ∨ w = 3 ∨ w = 4 ∨ w = 5 := by
      rcases (by omega : w.toNat = 0 ∨ w.toNat = 1 ∨ w.toNat = 2 ∨ w.toNat = 3 ∨ w.toNat = 4 ∨ w.toNat = 5)
        with e | e | e | e | e | e <;> simp [← BitVec.toNat_inj, e]
    rcases hw with rfl | rfl | rfl | rfl | rfl | rfl <;> decide
  · refine .inr (.inr (.inr (.inr (.inr (.inr ⟨by omega, ?_⟩)))))
    unfold decodeWord
    split
    · rfl
    · rename_i hr
      rw [not_not, cmdRsv_eq_zero_iff] at hr
      split <;> first | rfl | (rename_i e; rw [cmdOp_toNat] at e; omega)

/-- A word from 6 on is illegal (30_encoding.md R73). -/
theorem decodeWord_illegal {w : Word} (h : 6 ≤ w.toNat) : decodeWord w = .illegal w := by
  rcases decodeWord_cases w with ⟨rfl, _⟩ | ⟨rfl, _⟩ | ⟨rfl, _⟩ | ⟨rfl, _⟩ | ⟨rfl, _⟩ | ⟨rfl, _⟩ | ⟨_, e⟩
  case inr.inr.inr.inr.inr.inr => exact e
  all_goals simp at h

/-- The words of 30_encoding.md R73 are those from 6 on. -/
theorem illegal_wellFormed_iff (w : Word) : (Instr.illegal w).wellFormed = true ↔ 6 ≤ w.toNat := by
  have h1 := cmdRsv_eq_zero_iff w
  have h2 := cmdOp_toNat w
  simp only [Instr.wellFormed, Bool.or_eq_true, bne_iff_ne, decide_eq_true_eq, ne_eq]
  change ¬ cmdRsv w = 0 ∨ 6 ≤ (cmdOp w).toNat ↔ _
  rw [h1, h2]
  omega

/-- The word an instruction was decoded from is its encoding. -/
theorem encode_of_decodeWord {w : Word} {i : Instr} (h : decodeWord w = i) : encode i = w := by
  subst h
  rcases decodeWord_cases w with ⟨e, h⟩ | ⟨e, h⟩ | ⟨e, h⟩ | ⟨e, h⟩ | ⟨e, h⟩ | ⟨e, h⟩ | ⟨_, h⟩ <;>
    rw [h] <;> first | exact e.symm | rfl

/-- The decoder answers a well-formed instruction. -/
theorem decodeWord_wellFormed (w : Word) : (decodeWord w).wellFormed = true := by
  rcases decodeWord_cases w with ⟨_, h⟩ | ⟨_, h⟩ | ⟨_, h⟩ | ⟨_, h⟩ | ⟨_, h⟩ | ⟨_, h⟩ | ⟨h6, h⟩ <;> rw [h]
  case inr.inr.inr.inr.inr.inr => exact (illegal_wellFormed_iff w).mpr h6
  all_goals rfl

end Sys2Proof
end

