-- ==== Sys2Proof/Laws/Generator.lean ====
section
/-! SUPPORT. GenerateCode (43_generate.md) and the parts of SHA-1 it uses, as numbers. -/

namespace Sys2Proof.Machine

theorem truncOffset_eq (dg : Vector Byte 20) : truncOffset dg = dg[19].toNat % 16 := by
  unfold truncOffset
  rw [BitVec.toNat_and]
  exact Nat.and_two_pow_sub_one_eq_mod _ 4

/-- Shifting a number past the bits of another adds them. -/
theorem mul_two_pow_or {a b i : Nat} (h : b < 2 ^ i) : a * 2 ^ i ||| b = a * 2 ^ i + b := by
  have := Nat.shiftLeft_add_eq_or_of_lt h a
  rw [Nat.shiftLeft_eq] at this
  omega

/-- The value Truncate reads at an offset, as a number (43_generate.md R141). -/
theorem truncateAt_toNat (dg : Vector Byte 20) (o : Nat) (h : o < 16) : (truncateAt dg o h).toNat =
    dg[o].toNat % 128 * 2 ^ 24 + dg[o + 1].toNat * 2 ^ 16 + dg[o + 2].toNat * 2 ^ 8 + dg[o + 3].toNat := by
  unfold truncateAt
  have h1 := (dg[o + 1]).isLt
  have h2 := (dg[o + 2]).isLt
  have h3 := (dg[o + 3]).isLt
  have e0 : (dg[o] &&& 0x7F).toNat = dg[o].toNat % 128 := by
    rw [BitVec.toNat_and]
    exact Nat.and_two_pow_sub_one_eq_mod _ 7
  have h0 : dg[o].toNat % 128 < 128 := Nat.mod_lt _ (by decide)
  simp only [BitVec.toNat_or, BitVec.toNat_shiftLeft, BitVec.toNat_setWidth, e0, Nat.shiftLeft_eq]
  rw [Nat.mod_eq_of_lt (a := dg[o].toNat % 128) (by omega), Nat.mod_eq_of_lt (a := dg[o + 1].toNat) (by omega),
    Nat.mod_eq_of_lt (a := dg[o + 2].toNat) (by omega), Nat.mod_eq_of_lt (a := dg[o + 3].toNat) (by omega),
    Nat.mod_eq_of_lt (a := dg[o].toNat % 128 * 2 ^ 24) (by omega),
    Nat.mod_eq_of_lt (a := dg[o + 1].toNat * 2 ^ 16) (by omega),
    Nat.mod_eq_of_lt (a := dg[o + 2].toNat * 2 ^ 8) (by omega),
    mul_two_pow_or (by omega),
    show dg[o].toNat % 128 * 2 ^ 24 + dg[o + 1].toNat * 2 ^ 16 =
      (dg[o].toNat % 128 * 2 ^ 8 + dg[o + 1].toNat) * 2 ^ 16 by ring,
    mul_two_pow_or (by omega),
    show (dg[o].toNat % 128 * 2 ^ 8 + dg[o + 1].toNat) * 2 ^ 16 + dg[o + 2].toNat * 2 ^ 8 =
      ((dg[o].toNat % 128 * 2 ^ 8 + dg[o + 1].toNat) * 2 ^ 8 + dg[o + 2].toNat) * 2 ^ 8 by ring,
    mul_two_pow_or (by omega)]

/-- code_int is below 10^6 (43_generate.md R142, R144). -/
theorem reduceCode_toNat (p : BitVec 31) : (reduceCode p).toNat = p.toNat % 1000000 := by
  simp only [reduceCode, Config.digits, BitVec.toNat_ofNat]
  omega

theorem reduceCode_lt (p : BitVec 31) : (reduceCode p).toNat < 1000000 := by
  rw [reduceCode_toNat]; omega

@[simp] theorem formatCode_getElem (x k : Nat) (h : k < 6) :
    (formatCode x)[k] = BitVec.ofNat 8 (0x30 + x / 10 ^ (5 - k) % 10) := by
  simp [formatCode]

/-- Each digit of a code is an ASCII digit (43_generate.md R143). -/
theorem formatCode_getElem_toNat (x k : Nat) (h : k < 6) :
    (formatCode x)[k].toNat = 0x30 + x / 10 ^ (5 - k) % 10 := by
  rw [formatCode_getElem x k h, BitVec.toNat_ofNat]
  omega

/-- The fields of GenerateCode's result (43_generate.md R145). -/
theorem generateCode_fields (k : List Byte) (c : BitVec 64) :
    (generateCode k c).digest = hmacSha1 k (beBytes 8 c.toNat) ∧
    (generateCode k c).trunc = truncate (generateCode k c).digest ∧
    (generateCode k c).codeInt.toNat = (generateCode k c).trunc.toNat % 1000000 ∧
    (generateCode k c).code = formatCode (generateCode k c).codeInt.toNat :=
  ⟨rfl, rfl, reduceCode_toNat _, rfl⟩

end Sys2Proof.Machine
end

