-- ==== Sys2Proof/Laws/Exec.lean ====
section
/-! SUPPORT. The meanings, one lemma per outcome over the shared operations, and what every command leaves
alone. Later proofs cite these and do not unfold exec. -/

namespace Sys2Proof.Machine

/-! ### One lemma per outcome -/

theorem exec_decode_error {s : State} {e : ErrorKind} (h : decodeSecret s.secret s.secretLen = .error e) :
    exec .decode s = .next (raise e (zeroizeKey (clearCodeOutputs s))) := by
  simp [exec, execDecode, h]

theorem exec_decode_ok {s : State} {k : List Byte} (h : decodeSecret s.secret s.secretLen = .ok k) :
    exec .decode s = .next (succeed (storeKey k (clearCodeOutputs s))) := by
  simp [exec, execDecode, h]

theorem exec_counter_error {s : State} {e : ErrorKind} (h : deriveCounter s.time = .error e) :
    exec .counter s = .next (raise e (dropCounter (clearCodeOutputs s))) := by
  simp [exec, execCounter, h]

theorem exec_counter_ok {s : State} {c : BitVec 64} (h : deriveCounter s.time = .ok c) :
    exec .counter s = .next (succeed (storeCounter c (clearCodeOutputs s))) := by
  simp [exec, execCounter, h]

theorem exec_generate_error {s : State} (h : s.keyValid = false ∨ s.ctrValid = false) :
    exec .generate s = .next (raise .sequenceError (clearCodeOutputs s)) :=
  if_pos h

theorem exec_generate_ok {s : State} (hk : s.keyValid = true) (hc : s.ctrValid = true) :
    exec .generate s =
      .next (succeed (storeCode (generateCode (heldKey s) s.counter) (clearCodeOutputs s))) := by
  simp [exec, execGenerate, hk, hc, heldKey]

theorem exec_totp_secret_error {s : State} {e : ErrorKind} (h : decodeSecret s.secret s.secretLen = .error e) :
    exec .totp s = .next (raise e (zeroizeKey (clearCodeOutputs s))) := by
  simp [exec, execTotp, h]

theorem exec_totp_clock_error {s : State} {k : List Byte} {e : ErrorKind}
    (h : decodeSecret s.secret s.secretLen = .ok k) (ht : deriveCounter s.time = .error e) :
    exec .totp s = .next (raise e (zeroizeKey (dropCounter (clearCodeOutputs s)))) := by
  simp [exec, execTotp, h, ht, storeKey, zeroizeKey, dropCounter, clearCodeOutputs]

theorem exec_totp_ok {s : State} {k : List Byte} {c : BitVec 64}
    (h : decodeSecret s.secret s.secretLen = .ok k) (ht : deriveCounter s.time = .ok c) :
    exec .totp s =
      .next (succeed (zeroizeKey (storeCode (generateCode k c) (storeCounter c (clearCodeOutputs s))))) := by
  have hk : k.length ≤ 20 := by
    have := (decodeSecret_ok_length h).2.2
    simp only [List.mem_cons, List.not_mem_nil, or_false] at this
    omega
  have e : ∀ u : State, heldKey (storeCounter c (storeKey k u)) = k := fun u => heldKey_storeKey k u hk
  simp only [exec, execTotp, clearCodeOutputs_secret, clearCodeOutputs_secretLen, h, storeKey_time,
    clearCodeOutputs_time, ht, e, storeCounter_counter]
  rfl

theorem exec_zeroize (s : State) :
    exec .zeroize s = .next (succeed (zeroizeKey (clearSecret (clearCodeOutputs s)))) := rfl

theorem exec_nop (s : State) : exec .nop s = .next (succeed s) := rfl

theorem exec_illegal (w : Word) (s : State) : exec (.illegal w) s = .next (raise .illegalCommand s) := rfl

/-! ### Everything a command can do -/

/-- Everything exec can answer: the lemmas above, each with its condition. -/
theorem exec_cases {i : Instr} {s : State} {o : Host.Outcome State Fault Refusal} (h : exec i s = o) :
    (i = .nop ∧ o = .next (succeed s)) ∨
    (∃ w, i = .illegal w ∧ o = .next (raise .illegalCommand s)) ∨
    (i = .zeroize ∧ o = .next (succeed (zeroizeKey (clearSecret (clearCodeOutputs s))))) ∨
    (∃ e, i = .decode ∧ decodeSecret s.secret s.secretLen = .error e ∧
      o = .next (raise e (zeroizeKey (clearCodeOutputs s)))) ∨
    (∃ k, i = .decode ∧ decodeSecret s.secret s.secretLen = .ok k ∧
      o = .next (succeed (storeKey k (clearCodeOutputs s)))) ∨
    (∃ e, i = .counter ∧ deriveCounter s.time = .error e ∧
      o = .next (raise e (dropCounter (clearCodeOutputs s)))) ∨
    (∃ c, i = .counter ∧ deriveCounter s.time = .ok c ∧
      o = .next (succeed (storeCounter c (clearCodeOutputs s)))) ∨
    (i = .generate ∧ (s.keyValid = false ∨ s.ctrValid = false) ∧
      o = .next (raise .sequenceError (clearCodeOutputs s))) ∨
    (i = .generate ∧ s.keyValid = true ∧ s.ctrValid = true ∧
      o = .next (succeed (storeCode (generateCode (heldKey s) s.counter) (clearCodeOutputs s)))) ∨
    (∃ e, i = .totp ∧ decodeSecret s.secret s.secretLen = .error e ∧
      o = .next (raise e (zeroizeKey (clearCodeOutputs s)))) ∨
    (∃ k e, i = .totp ∧ decodeSecret s.secret s.secretLen = .ok k ∧ deriveCounter s.time = .error e ∧
      o = .next (raise e (zeroizeKey (dropCounter (clearCodeOutputs s))))) ∨
    (∃ k c, i = .totp ∧ decodeSecret s.secret s.secretLen = .ok k ∧ deriveCounter s.time = .ok c ∧
      o = .next
        (succeed (zeroizeKey (storeCode (generateCode k c) (storeCounter c (clearCodeOutputs s)))))) := by
  subst h
  cases i with
  | nop => simp [exec_nop]
  | illegal w => simp [exec_illegal]
  | zeroize => simp [exec_zeroize]
  | decode =>
    cases h : decodeSecret s.secret s.secretLen with
    | error e => simp [exec_decode_error h]
    | ok k => simp [exec_decode_ok h]
  | counter =>
    cases h : deriveCounter s.time with
    | error e => simp [exec_counter_error h]
    | ok c => simp [exec_counter_ok h]
  | generate =>
    by_cases h : s.keyValid = false ∨ s.ctrValid = false
    · simp [exec_generate_error h, h]
    · simp only [not_or, Bool.not_eq_false] at h
      simp [exec_generate_ok h.1 h.2, h]
  | totp =>
    cases h : decodeSecret s.secret s.secretLen with
    | error e => simp [exec_totp_secret_error h]
    | ok k =>
      cases ht : deriveCounter s.time with
      | error e => simp [exec_totp_clock_error h ht]
      | ok c => simp [exec_totp_ok h ht]

/-- Every command completes: it answers a next state and never stops. -/
theorem exec_next (i : Instr) (s : State) : ∃ t, exec i s = .next t := by
  rcases exec_cases (rfl : exec i s = _) with ⟨_, h⟩ | ⟨_, _, h⟩ | ⟨_, h⟩ | ⟨_, _, _, h⟩ | ⟨_, _, _, h⟩ |
    ⟨_, _, _, h⟩ | ⟨_, _, _, h⟩ | ⟨_, _, h⟩ | ⟨_, _, _, h⟩ | ⟨_, _, _, h⟩ | ⟨_, _, _, _, _, h⟩ |
    ⟨_, _, _, _, _, h⟩ <;> exact ⟨_, h⟩

/-- What no command changes: TIME and the host's lists (10_state.md R29). -/
theorem exec_frame {i : Instr} {s t : State} (h : exec i s = .next t) :
    t.time = s.time ∧ t.pending = s.pending ∧ t.observed = s.observed := by
  rcases exec_cases h with ⟨_, e⟩ | ⟨_, _, e⟩ | ⟨_, e⟩ | ⟨_, _, _, e⟩ | ⟨_, _, _, e⟩ |
    ⟨_, _, _, e⟩ | ⟨_, _, _, e⟩ | ⟨_, _, e⟩ | ⟨_, _, _, e⟩ | ⟨_, _, _, e⟩ | ⟨_, _, _, _, _, e⟩ |
    ⟨_, _, _, _, _, e⟩ <;> cases e <;> exact ⟨rfl, rfl, rfl⟩

end Sys2Proof.Machine
end

