-- ==== Sys2Proof/Laws/Operands.lean ====
section
/-! SUPPORT. The register window: the register map is one to one, the lanes of a word, and what a read returns
after a write. -/

namespace Sys2Proof.Machine

/-! ### The register map -/

/-- The register at a register's offset is that register. -/
theorem regAt_regOffset (r : Reg) : regAt (regOffset r) = some r := by
  cases r with
  | secret k => revert k; decide
  | digest k => revert k; decide
  | reserved k => revert k; decide
  | _ => rfl

/-- Every multiple of 4 is the offset of a register. -/
theorem regOffset_of_regAt : ∀ {off : BitVec 8} {r : Reg}, regAt off = some r → regOffset r = off := by
  decide +kernel

theorem regAt_isSome_iff : ∀ off : BitVec 8, (regAt off).isSome = true ↔ off.toNat % 4 = 0 := by
  decide +kernel

theorem regAt_eq_none_iff (off : BitVec 8) : regAt off = none ↔ off.toNat % 4 ≠ 0 := by
  have := regAt_isSome_iff off
  cases h : regAt off <;> simp_all

theorem exists_regAt (off : BitVec 8) (h : off.toNat % 4 = 0) : ∃ r, regAt off = some r :=
  Option.isSome_iff_exists.mp ((regAt_isSome_iff off).mpr h)

theorem regOffset_mod_four (r : Reg) : (regOffset r).toNat % 4 = 0 :=
  (regAt_isSome_iff _).mp (by rw [regAt_regOffset]; rfl)

/-! ### Lanes -/

theorem packWord_toNat (b0 b1 b2 b3 : Byte) : (packWord b0 b1 b2 b3).toNat =
    b0.toNat * 2 ^ 24 + b1.toNat * 2 ^ 16 + b2.toNat * 2 ^ 8 + b3.toNat := by
  show (b0 ++ b1 ++ b2 ++ b3 : BitVec (8 + 8 + 8 + 8)).toNat = _
  rw [BitVec.toNat_append, BitVec.toNat_append, BitVec.toNat_append,
    ← Nat.shiftLeft_add_eq_or_of_lt b1.isLt, ← Nat.shiftLeft_add_eq_or_of_lt b2.isLt,
    ← Nat.shiftLeft_add_eq_or_of_lt b3.isLt]
  simp only [Nat.shiftLeft_eq]
  omega

theorem byteLane_toNat (v : Word) (j : Nat) : (byteLane v j).toNat = v.toNat / 2 ^ (24 - 8 * j) % 2 ^ 8 := by
  simp [byteLane, BitVec.extractLsb'_toNat, Nat.shiftRight_eq_div_pow]

@[simp] theorem packWord_byteLanes (v : Word) :
    packWord (byteLane v 0) (byteLane v 1) (byteLane v 2) (byteLane v 3) = v := by
  apply BitVec.eq_of_toNat_eq
  have := v.isLt
  simp only [packWord_toNat, byteLane_toNat]
  omega

/-- The four lanes of a packed word are its bytes. -/
theorem byteLane_packWord (b0 b1 b2 b3 : Byte) :
    byteLane (packWord b0 b1 b2 b3) 0 = b0 ∧ byteLane (packWord b0 b1 b2 b3) 1 = b1 ∧
    byteLane (packWord b0 b1 b2 b3) 2 = b2 ∧ byteLane (packWord b0 b1 b2 b3) 3 = b3 := by
  have h0 := b0.isLt
  have h1 := b1.isLt
  have h2 := b2.isLt
  have h3 := b3.isLt
  refine ⟨?_, ?_, ?_, ?_⟩ <;> apply BitVec.eq_of_toNat_eq <;>
    simp only [packWord_toNat, byteLane_toNat] <;> omega

theorem joinHalves_toNat (hi lo : Word) : (joinHalves hi lo).toNat = hi.toNat * 2 ^ 32 + lo.toNat := by
  show (hi ++ lo : BitVec (32 + 32)).toNat = _
  rw [BitVec.toNat_append, ← Nat.shiftLeft_add_eq_or_of_lt lo.isLt, Nat.shiftLeft_eq]

theorem loHalf_toNat (x : BitVec 64) : (loHalf x).toNat = x.toNat % 2 ^ 32 := by
  simp [loHalf, BitVec.extractLsb'_toNat]

theorem hiHalf_toNat (x : BitVec 64) : (hiHalf x).toNat = x.toNat / 2 ^ 32 := by
  have := x.isLt
  simp [hiHalf, BitVec.extractLsb'_toNat, Nat.shiftRight_eq_div_pow]
  omega

@[simp] theorem loHalf_joinHalves (hi lo : Word) : loHalf (joinHalves hi lo) = lo := by
  have := lo.isLt
  apply BitVec.eq_of_toNat_eq
  rw [loHalf_toNat, joinHalves_toNat]
  omega

@[simp] theorem hiHalf_joinHalves (hi lo : Word) : hiHalf (joinHalves hi lo) = hi := by
  have := lo.isLt
  apply BitVec.eq_of_toNat_eq
  rw [hiHalf_toNat, joinHalves_toNat]
  omega

@[simp] theorem joinHalves_halves (x : BitVec 64) : joinHalves (hiHalf x) (loHalf x) = x := by
  apply BitVec.eq_of_toNat_eq
  rw [joinHalves_toNat, hiHalf_toNat, loHalf_toNat]
  omega

/-! ### SECRET, word by word -/

/-- What a write of word k leaves at each byte of SECRET (10_state.md R28). -/
theorem setSecretWord_getElem (b : Vector Byte 32) (k : Fin 8) (v : Word) (i : Nat) (h : i < 32) :
    (setSecretWord b k v)[i] = if i / 4 = k.val then byteLane v (i % 4) else b[i] := by
  have hk := k.isLt
  simp only [setSecretWord, Vector.getElem_set]
  split_ifs <;> first | rfl | omega | (congr 1; omega)

theorem secretWord_setSecretWord (b : Vector Byte 32) (k : Fin 8) (v : Word) :
    secretWord (setSecretWord b k v) k = v := by
  have e0 : 4 * k.val / 4 = k.val := by omega
  have e1 : (4 * k.val + 1) / 4 = k.val := by omega
  have e2 : (4 * k.val + 2) / 4 = k.val := by omega
  have e3 : (4 * k.val + 3) / 4 = k.val := by omega
  have m0 : 4 * k.val % 4 = 0 := by omega
  have m1 : (4 * k.val + 1) % 4 = 1 := by omega
  have m2 : (4 * k.val + 2) % 4 = 2 := by omega
  have m3 : (4 * k.val + 3) % 4 = 3 := by omega
  simp only [secretWord, setSecretWord_getElem, e0, e1, e2, e3, m0, m1, m2, m3, if_true, packWord_byteLanes]

theorem secretWord_setSecretWord_ne (b : Vector Byte 32) (k j : Fin 8) (v : Word) (h : j ≠ k) :
    secretWord (setSecretWord b k v) j = secretWord b j := by
  have hv : j.val ≠ k.val := fun e => h (Fin.ext e)
  have e0 : 4 * j.val / 4 = j.val := by omega
  have e1 : (4 * j.val + 1) / 4 = j.val := by omega
  have e2 : (4 * j.val + 2) / 4 = j.val := by omega
  have e3 : (4 * j.val + 3) / 4 = j.val := by omega
  simp only [secretWord, setSecretWord_getElem, e0, e1, e2, e3, if_neg hv]

/-! ### Reads after writes -/

/-- The registers the host can write (10_state.md, the register map). CMD is write-only and stores nothing. -/
def Stored (r : Reg) : Prop :=
  r = .secretLen ∨ (∃ k, r = .secret k) ∨ r = .timeLo ∨ r = .timeHi ∨ r = .counterLo ∨ r = .counterHi

/-- A stored register reads the last value written (10_state.md R27 to R30). -/
theorem readReg_writeReg_self (r : Reg) (v : Word) (s : State) (h : Stored r) :
    readReg r (writeReg r v s) = v := by
  rcases h with rfl | ⟨k, rfl⟩ | rfl | rfl | rfl | rfl <;>
    simp [readReg, writeReg, writeCounter, secretWord_setSecretWord]

/-- A register that stores nothing ignores writes (20_memory.md R59). -/
theorem writeReg_of_not_stored (r : Reg) (v : Word) (s : State) (h : ¬ Stored r) : writeReg r v s = s := by
  cases r <;> first | rfl | simp [Stored] at h

/-- A write that is not to a half of COUNTER leaves every other register as it was (20_memory.md R59). -/
theorem readReg_writeReg_ne (r r' : Reg) (v : Word) (s : State) (hl : r ≠ .counterLo) (hh : r ≠ .counterHi)
    (h : r' ≠ r) : readReg r' (writeReg r v s) = readReg r' s := by
  cases r with
  | secret k =>
    cases r' with
    | secret j => exact secretWord_setSecretWord_ne _ _ _ _ fun e => h (by rw [e])
    | _ => rfl
  | counterLo => exact absurd rfl hl
  | counterHi => exact absurd rfl hh
  | secretLen => cases r' <;> first | rfl | exact absurd rfl h
  | timeLo => cases r' <;> first | rfl | exact absurd rfl h | simp [readReg, writeReg]
  | timeHi => cases r' <;> first | rfl | exact absurd rfl h | simp [readReg, writeReg]
  | _ => rfl

/-- What a read returns does not depend on the host's lists (20_memory.md R58). -/
@[simp] theorem readReg_host (r : Reg) (s : State) (p : List HostEvent) (o : List Word) :
    readReg r { s with pending := p, observed := o } = readReg r s := by
  cases r <;> rfl

/-- No register reads KEY (10_state.md R32). -/
theorem readReg_key (r : Reg) (s : State) (key : Vector Byte 20) : readReg r { s with key := key } = readReg r s := by
  cases r <;> rfl

/-- No host write depends on KEY or changes it (10_state.md R32). -/
theorem writeReg_key (r : Reg) (v : Word) (s : State) (key : Vector Byte 20) :
    writeReg r v { s with key := key } = { writeReg r v s with key := key } := by
  cases r <;> rfl

/-- What a host write leaves alone: the key, ERR and the host's lists (20_memory.md R59; 60_exceptions.md R182). -/
theorem writeReg_frame (r : Reg) (v : Word) (s : State) :
    (writeReg r v s).key = s.key ∧ (writeReg r v s).keyLen = s.keyLen ∧
    (writeReg r v s).keyValid = s.keyValid ∧ (writeReg r v s).err = s.err ∧
    (writeReg r v s).pending = s.pending ∧ (writeReg r v s).observed = s.observed := by
  cases r <;> exact ⟨rfl, rfl, rfl, rfl, rfl, rfl⟩

end Sys2Proof.Machine
end

