-- ==== Sys2Proof/Laws/PerInstr.lean ====
section
/-! SUPPORT. Statements for all instructions, one lemma per constructor. `Recoding`: a word that decodes to the
instruction is the instruction's encoding, so each instruction has one word at most (30_encoding.md R72 to R74). -/

namespace Sys2Proof.Laws

/-- Every word that decodes to `i` is `encode i`, and then `i` is well formed. -/
def Recoding.Statement (i : Instr) : Prop :=
  ∀ w : Word, decodeWord w = i → encode i = w ∧ i.wellFormed = true

theorem Recoding.nop : Recoding.Statement .nop := fun w h =>
  ⟨encode_of_decodeWord h, h ▸ decodeWord_wellFormed w⟩

theorem Recoding.decode : Recoding.Statement .decode := fun w h =>
  ⟨encode_of_decodeWord h, h ▸ decodeWord_wellFormed w⟩

theorem Recoding.counter : Recoding.Statement .counter := fun w h =>
  ⟨encode_of_decodeWord h, h ▸ decodeWord_wellFormed w⟩

theorem Recoding.generate : Recoding.Statement .generate := fun w h =>
  ⟨encode_of_decodeWord h, h ▸ decodeWord_wellFormed w⟩

theorem Recoding.totp : Recoding.Statement .totp := fun w h =>
  ⟨encode_of_decodeWord h, h ▸ decodeWord_wellFormed w⟩

theorem Recoding.zeroize : Recoding.Statement .zeroize := fun w h =>
  ⟨encode_of_decodeWord h, h ▸ decodeWord_wellFormed w⟩

theorem Recoding.illegal (v : Word) : Recoding.Statement (.illegal v) := fun w h =>
  ⟨encode_of_decodeWord h, h ▸ decodeWord_wellFormed w⟩

end Sys2Proof.Laws
end

