-- ==== Sys2Proof/Laws/Step.lean ====
section
/-! SUPPORT. One step: what it does at each kind of host event, and everything it can do. -/

namespace Sys2Proof.Machine

theorem step_idle {s : State} (h : s.pending = []) : step s = .next s := by
  simp [step, serveNext, h]

theorem step_of_pending {s : State} {e : HostEvent} {rest : List HostEvent} (h : s.pending = e :: rest) :
    step s = serve e { s with pending := rest } := by
  simp [step, serveNext, h]

theorem step_reset {s : State} {rest : List HostEvent} (h : s.pending = .reset :: rest) :
    step s = .next (resetBlock { s with pending := rest }) := by
  rw [step_of_pending h]; rfl

theorem step_read {s : State} {off : BitVec 8} {r : Reg} {rest : List HostEvent} (hr : regAt off = some r)
    (h : s.pending = .read off 4 :: rest) :
    step s = .next { s with pending := rest, observed := s.observed ++ [readReg r s] } := by
  rw [step_of_pending h]
  simp only [serve, serveRead, hr, observe]
  cases r <;> rfl

theorem step_write {s : State} {off : BitVec 8} {r : Reg} {v : Word} {rest : List HostEvent}
    (hr : regAt off = some r) (hc : r ≠ .cmd) (h : s.pending = .write off 4 v :: rest) :
    step s = .next (writeReg r v { s with pending := rest }) := by
  rw [step_of_pending h]
  simp only [serve, serveWrite, hr]

theorem step_command {s : State} {w : Word} {rest : List HostEvent} (h : s.pending = .write 0x04 4 w :: rest) :
    step s = exec (decodeWord w) { s with pending := rest } := by
  rw [step_of_pending h]; rfl

theorem step_outside_read {s : State} {off : BitVec 8} {width : Nat} {rest : List HostEvent}
    (ho : width ≠ 4 ∨ off.toNat % 4 ≠ 0) (h : s.pending = .read off width :: rest) :
    step s = .refused (.outsideInterface off width) := by
  rw [step_of_pending h]
  simp only [serve, serveRead]
  split
  · rename_i r e
    rw [(regAt_eq_none_iff off).mpr (ho.resolve_left (by simp))] at e
    cases e
  · rfl

theorem step_outside_write {s : State} {off : BitVec 8} {width : Nat} {v : Word} {rest : List HostEvent}
    (ho : width ≠ 4 ∨ off.toNat % 4 ≠ 0) (h : s.pending = .write off width v :: rest) :
    step s = .refused (.outsideInterface off width) := by
  rw [step_of_pending h]
  simp only [serve, serveWrite]
  split
  · rename_i e
    rw [(regAt_eq_none_iff off).mpr (ho.resolve_left (by simp))] at e
    cases e
  · rename_i e
    rw [(regAt_eq_none_iff off).mpr (ho.resolve_left (by simp))] at e
    cases e
  · rfl

/-- Everything a step can do. -/
theorem step_cases {s : State} {o : Host.Outcome State Fault Refusal} (h : step s = o) :
    (s.pending = [] ∧ o = .next s) ∨
    (∃ rest, s.pending = .reset :: rest ∧ o = .next (resetBlock { s with pending := rest })) ∨
    (∃ off r rest, regAt off = some r ∧ s.pending = .read off 4 :: rest ∧
      o = .next { s with pending := rest, observed := s.observed ++ [readReg r s] }) ∨
    (∃ off r v rest, regAt off = some r ∧ r ≠ .cmd ∧ s.pending = .write off 4 v :: rest ∧
      o = .next (writeReg r v { s with pending := rest })) ∨
    (∃ w rest, s.pending = .write 0x04 4 w :: rest ∧ o = exec (decodeWord w) { s with pending := rest }) ∨
    (∃ off width rest, (width ≠ 4 ∨ off.toNat % 4 ≠ 0) ∧
      (s.pending = .read off width :: rest ∨ ∃ v, s.pending = .write off width v :: rest) ∧
      o = .refused (.outsideInterface off width)) := by
  subst h
  cases hp : s.pending with
  | nil => exact .inl ⟨rfl, step_idle hp⟩
  | cons e rest =>
    refine .inr ?_
    cases e with
    | reset => exact .inl ⟨rest, rfl, step_reset hp⟩
    | read off width =>
      refine .inr ?_
      by_cases ho : width ≠ 4 ∨ off.toNat % 4 ≠ 0
      · exact .inr (.inr (.inr ⟨off, width, rest, ho, .inl rfl, step_outside_read ho hp⟩))
      · rw [not_or, not_not, not_not] at ho
        obtain ⟨rfl, ho⟩ := ho
        obtain ⟨r, hr⟩ := exists_regAt off ho
        exact .inl ⟨off, r, rest, hr, rfl, step_read hr hp⟩
    | write off width v =>
      refine .inr (.inr ?_)
      by_cases ho : width ≠ 4 ∨ off.toNat % 4 ≠ 0
      · exact .inr (.inr ⟨off, width, rest, ho, .inr ⟨v, rfl⟩, step_outside_write ho hp⟩)
      · rw [not_or, not_not, not_not] at ho
        obtain ⟨rfl, ho⟩ := ho
        obtain ⟨r, hr⟩ := exists_regAt off ho
        by_cases hc : r = .cmd
        · subst hc
          obtain rfl : (0x04 : BitVec 8) = off := regOffset_of_regAt hr
          exact .inr (.inl ⟨v, rest, rfl, step_command hp⟩)
        · exact .inl ⟨off, r, v, rest, hr, hc, rfl, step_write hr hc hp⟩

/-! ### Runs -/

theorem run_zero (s : State) : Host.Core.run core 0 s = .next s := rfl

theorem run_succ {s t : State} (h : step s = .next t) (k : Nat) :
    Host.Core.run core (k + 1) s = Host.Core.run core k t := by
  have h' : core.step s = .next t := h
  simp only [Host.Core.run, h']

end Sys2Proof.Machine
end

