-- ==== Sys2Proof/Laws/Safety.lean ====
section
/-! SUPPORT. The properties of 10_state.md R23, one lemma per shared operation: each keeps them. -/

namespace Sys2Proof.Machine

theorem State.Inv.host {s : State} (h : s.Inv) (p : List HostEvent) (o : List Word) :
    State.Inv { s with pending := p, observed := o } :=
  ⟨h.1, h.2, h.3, h.4, h.5, h.6, h.7, h.8, h.9, h.10, h.11⟩

theorem ErrorKind.code_le (e : ErrorKind) : e.code.toNat ≤ 5 := by cases e <;> decide

theorem State.Inv.raise {s : State} (h : s.Inv) (e : ErrorKind) : (raise e s).Inv :=
  ⟨h.1, h.2, h.3, h.4, h.5, h.6, h.7, h.8, h.9, h.10, e.code_le⟩

theorem State.Inv.succeed {s : State} (h : s.Inv) : (succeed s).Inv := h.raise .none

theorem State.Inv.clearCodeOutputs {s : State} (h : s.Inv) : (clearCodeOutputs s).Inv :=
  ⟨h.1, h.2, h.3, by simp, by simp, by simp, by simp, h.8, by simp, by simp, h.11⟩

theorem State.Inv.zeroizeKey {s : State} (h : s.Inv) : (zeroizeKey s).Inv :=
  ⟨by simp, by simp, by simp, h.4, h.5, h.6, by simp, h.8, h.9, h.10, h.11⟩

theorem State.Inv.clearSecret {s : State} (h : s.Inv) : (clearSecret s).Inv :=
  ⟨h.1, h.2, h.3, h.4, h.5, h.6, h.7, h.8, h.9, h.10, h.11⟩

/-- A decoded key may be stored once the code outputs are cleared. -/
theorem State.Inv.storeKey {s : State} (h : s.Inv) (hc : s.codeValid = false) {k : List Byte}
    (hk : k.length ∈ [10, 16, 20]) : (storeKey k s).Inv := by
  have hm : (BitVec.ofNat 8 k.length).toNat = k.length := by
    simp at hk ⊢
    omega
  refine ⟨?_, ?_, ?_, h.4, h.5, h.6, by simp [hc], h.8, h.9, h.10, h.11⟩
  · simp only [storeKey_keyValid, storeKey_keyLen, true_iff]
    intro e
    rw [e] at hm
    simp [← hm] at hk
  · intro _
    rw [storeKey_keyLen, hm]
    exact hk
  · intro i hi
    rw [storeKey_keyLen, hm] at hi
    exact (padTo_getElem k i.val i.isLt).trans (by simp [List.getD, hi])

theorem State.Inv.storeCounter {s : State} (h : s.Inv) (hc : s.codeValid = false) (c : BitVec 64) :
    (storeCounter c s).Inv :=
  ⟨h.1, h.2, h.3, h.4, h.5, by simp [hc], by simp [hc], by simp, h.9, h.10, h.11⟩

theorem State.Inv.dropCounter {s : State} (h : s.Inv) (hc : s.codeValid = false) : (dropCounter s).Inv :=
  ⟨h.1, h.2, h.3, h.4, h.5, by simp [hc], by simp [hc], by simp, h.9, h.10, h.11⟩

/-- The code of the counter may be stored, made with a key of a legal length that is the held one if a key is
held. -/
theorem State.Inv.storeCode {s : State} (h : s.Inv) {k : List Byte} (hk : k.length ∈ [10, 16, 20])
    (hh : s.keyValid = true → heldKey s = k) : (storeCode (generateCode k s.counter) s).Inv := by
  obtain ⟨a, b, c, d⟩ := generateCode_fields k s.counter
  refine ⟨h.1, h.2, h.3, by simp, fun _ => ⟨b, c, d⟩, fun _ => ⟨k, hk, a⟩, ?_, h.8, BitVec.isLt _,
    reduceCode_lt _, h.11⟩
  intro _ hv
  rw [show heldKey (Machine.storeCode (generateCode k s.counter) s) = k from hh hv]
  exact a

end Sys2Proof.Machine
end

