-- ==== Sys2Proof/Laws/Sha1.lean ====
section
/-! SUPPORT. SHA-1 (42_hmac_sha1.md): the shape of the padded message, of the blocks and of the schedule. -/

namespace Sys2Proof.Machine

/-- The padding is as short as it can be (42_hmac_sha1.md R121). -/
theorem sha1ZeroBytes_least (len z : Nat) :
    (len + 1 + sha1ZeroBytes len) % 64 = 56 ∧ ((len + 1 + z) % 64 = 56 → sha1ZeroBytes len ≤ z) := by
  unfold sha1ZeroBytes
  omega

theorem sha1Pad_length (m : List Byte) :
    (sha1Pad m).length = m.length + 1 + sha1ZeroBytes m.length + 8 := by
  simp [sha1Pad]
  omega

/-- Block i of a padded message (42_hmac_sha1.md R122). -/
theorem sha1Blocks_eq_map (n : Nat) (p : List Byte) :
    sha1Blocks n p = (List.range n).map fun i => (p.drop (64 * i)).take 64 := by
  induction n generalizing p with
  | zero => rfl
  | succ n ih =>
    rw [sha1Blocks, ih, List.range_succ_eq_map, List.map_cons, List.map_map]
    refine congrArg₂ _ (by simp) (List.map_congr_left fun i _ => ?_)
    simp only [Function.comp_apply, List.drop_drop]
    congr 2
    omega

@[simp] theorem blockWords_length (b : List Byte) : (blockWords b).length = 16 := by simp [blockWords]

theorem scheduleExtend_length (n : Nat) (ws : List Word) : (scheduleExtend n ws).length = ws.length + n := by
  induction n generalizing ws with
  | zero => rfl
  | succ n ih => rw [scheduleExtend, ih, scheduleNext, List.length_cons]; omega

/-- The words the schedule starts from stay at its end. -/
theorem scheduleExtend_suffix (n : Nat) (ws : List Word) : ∃ l, scheduleExtend n ws = l ++ ws := by
  induction n generalizing ws with
  | zero => exact ⟨[], rfl⟩
  | succ n ih =>
    obtain ⟨l, h⟩ := ih (scheduleNext ws)
    exact ⟨l ++ [(scheduleNext ws).headD 0], by rw [scheduleExtend, h]; simp [scheduleNext]⟩

@[simp] theorem messageSchedule_length (m : List Word) : (messageSchedule m).length = m.length + 64 := by
  simp [messageSchedule, scheduleExtend_length]

end Sys2Proof.Machine
end

