-- ==== Sys2Proof/Tests/Slice0.lean ====
section
/-! SUPPORT. Tests. The WellFormed smoke tests, decoding of words written out from 30_encoding.md R70 and R72,
one or two single steps per instruction with expected values from 95_test_vectors.md, and for every obligation with
hypotheses a witness that meets them (the theorems `witness_<name of the obligation>`). -/

namespace Sys2Proof.Tests

open Sys2Proof Sys2Proof.Machine

/-! ### Helpers -/

/-- The ASCII bytes of a string (00_scope.md R19). -/
def ascii (str : String) : List Byte := str.toList.map fun c => BitVec.ofNat 8 c.toNat

/-- The next state of an outcome. -/
def after (o : Host.Outcome State Fault Refusal) : Option State :=
  match o with
  | .next s => some s
  | .fault _ => none
  | .refused _ => none

/-- Why an outcome refuses. -/
def refusal (o : Host.Outcome State Fault Refusal) : Option Refusal :=
  match o with
  | .next _ => none
  | .fault _ => none
  | .refused r => some r

/-- The reset state with a secret loaded. -/
def withSecret (str : String) : State :=
  { State.reset with secret := padTo 32 (ascii str), secretLen := BitVec.ofNat 32 (ascii str).length }

/-- The reset state with these events pending. -/
def withPending (p : List HostEvent) : State := { State.reset with pending := p }

/-- A 10-byte key, a counter and their code, as GENERATE leaves them. -/
def codeState : State :=
  storeCode (generateCode (List.replicate 10 1) 1) (storeCounter 1 (storeKey (List.replicate 10 1) State.reset))

theorem codeState_inv : codeState.Inv :=
  have h0 : State.reset.Inv := ⟨by decide, by decide, by decide, by decide, by decide,
    by simp [State.reset], by simp [State.reset], by decide, by decide, by decide, by decide⟩
  ((h0.storeKey rfl (by decide)).storeCounter rfl 1).storeCode (by decide) fun _ => by decide

/-! ### WellFormed: one ill-formed term for each check -/

theorem test_wf_nop_word_is_not_illegal : (Instr.illegal 0x00000000).wellFormed = false := by decide
theorem test_wf_last_command_is_not_illegal : (Instr.illegal 0x00000005).wellFormed = false := by decide
theorem test_wf_read_width : (HostEvent.read 0x08 2).wellFormed = false := by decide
theorem test_wf_read_offset : (HostEvent.read 0x0A 4).wellFormed = false := by decide
theorem test_wf_write_width : (HostEvent.write 0x10 8 0).wellFormed = false := by decide
theorem test_wf_write_offset : (HostEvent.write 0x11 4 0).wellFormed = false := by decide
theorem test_wf_op_wr_offset : (HostOp.wr 0x12 0).wellFormed = false := by decide
theorem test_wf_op_rd_offset : (HostOp.rd 0x03).wellFormed = false := by decide
theorem test_wf_op_cmd : (HostOp.cmd (.illegal 6)).wellFormed = false := by decide
theorem test_wf_op_secret_length : (HostOp.ldSecret (List.replicate 33 0x41)).wellFormed = false := by decide
theorem test_wf_op_secret_ascii : (HostOp.ldSecret [0x80]).wellFormed = false := by decide
theorem test_wf_op_time_low : (HostOp.ldTime (-(2 ^ 63) - 1)).wellFormed = false := by decide
theorem test_wf_op_time_high : (HostOp.ldTime (2 ^ 63)).wellFormed = false := by decide
theorem test_wf_op_counter : (HostOp.ldCounter (2 ^ 64)).wellFormed = false := by decide

/-! ### Decoding: RSV (24 bits) and OP (8 bits) written out (30_encoding.md R70, R72) -/

theorem test_decode_word_nop : decodeWord 0b000000000000000000000000_00000000 = .nop := by decide
theorem test_decode_word_decode : decodeWord 0b000000000000000000000000_00000001 = .decode := by decide
theorem test_decode_word_counter : decodeWord 0b000000000000000000000000_00000010 = .counter := by decide
theorem test_decode_word_generate : decodeWord 0b000000000000000000000000_00000011 = .generate := by decide
theorem test_decode_word_totp : decodeWord 0b000000000000000000000000_00000100 = .totp := by decide
theorem test_decode_word_zeroize : decodeWord 0b000000000000000000000000_00000101 = .zeroize := by decide
theorem test_decode_word_reserved_op :
    decodeWord 0b000000000000000000000000_00000110 = .illegal 0x00000006 := by decide
theorem test_decode_word_reserved_rsv :
    decodeWord 0b000000000000000000000001_00000000 = .illegal 0x00000100 := by decide
theorem test_decode_word_top_bit :
    decodeWord 0b100000000000000000000000_00000011 = .illegal 0x80000003 := by decide
theorem test_decode_table_word : decodeTableWord 32 4 = some .totp := by decide
/-- A program step from reset runs the placed word first: GENERATE without a key (V-G30). -/
theorem test_step_with_fetch_word :
    (after (step (State.reset.withFetchWord 32 3))).map (fun t => (t.err, t.pending)) =
      some (.sequenceError, []) := by decide

/-! ### Single steps (95_test_vectors.md) -/

/-- V-D5: the 26-byte secret. -/
theorem test_decode_v_d5 :
    (after (exec .decode (withSecret "AAAQEAYEAUDAOCAJBIFQYDIOB4"))).map
      (fun t => (t.key.toList, t.keyLen, statusWord t)) =
      some (beBytes 20 0x000102030405060708090a0b0c0d0e0f00000000, 16, 0x00000002) := by decide +kernel
/-- V-D16: a digit outside the alphabet. -/
theorem test_decode_v_d16 :
    (after (exec .decode (withSecret "JBSWY3DPEHPK3PX1"))).map (fun t => (t.keyLen, statusWord t)) =
      some (0, 0x00000200) := by decide +kernel
/-- V-C10: a time above 2^32. -/
theorem test_counter_v_c10 :
    (after (exec .counter { State.reset with time := 0x00000004A817C800 })).map
      (fun t => (t.counter, statusWord t)) = some (666666666, 0x00000004) := by decide +kernel
/-- V-C15: a failed COUNTER drops the counter held. -/
theorem test_counter_v_c15 :
    (after (exec .counter { State.reset with time := 0xFFFFFFFFFFFFFFFF, counter := 1, ctrValid := true })).map
      (fun t => (t.counter, statusWord t)) = some (0, 0x00000300) := by decide +kernel
/-- V-G12: a code with two leading zeros. -/
theorem test_generate_v_g12 :
    (after (exec .generate (storeCounter 41152263 (storeKey (ascii "12345678901234567890") State.reset)))).map
      (fun t => (t.digest.toList, t.trunc, t.code.toList, statusWord t)) =
      some (beBytes 20 0x907cd1a9116564ecb9d5d1780325f246173fe703, 0x29116564, ascii "005924", 0x0000000E) := by
  decide +kernel
/-- V-G32: a counter but no key. -/
theorem test_generate_v_g32 :
    (after (exec .generate (storeCounter 5 State.reset))).map statusWord = some 0x00000404 := by decide
/-- V-X7: the pipeline with a 10-byte key. -/
theorem test_totp_v_x7 :
    (after (exec .totp { withSecret "JBSWY3DPEHPK3PXP" with time := 1700000000 })).map
      (fun t => (t.counter, t.code.toList, t.keyLen, statusWord t)) =
      some (56666666, ascii "324550", 0, 0x0000000C) := by decide +kernel
/-- V-X10: a time before the epoch erases the decoded key and the counter held. -/
theorem test_totp_v_x10 :
    (after (exec .totp
      { withSecret "JBSWY3DPEHPK3PXP" with time := 0xFFFFFFFFFFFFFFFF, counter := 7, ctrValid := true })).map
      (fun t => (t.counter, t.keyLen, statusWord t)) = some (0, 0, 0x00000300) := by decide +kernel
/-- V-X12: ZEROIZE keeps the counter. -/
theorem test_zeroize_v_x12 :
    (after (exec .zeroize (storeCounter 7 (storeKey (List.replicate 10 1) (withSecret "JBSWY3DPEHPK3PXP"))))).map
      (fun t => (t.secretLen, readReg (.secret 0) t, t.counter, statusWord t)) =
      some (0, 0, 7, 0x00000004) := by decide
/-- V-X14: NOP clears ERR alone. -/
theorem test_nop_v_x14 :
    (after (exec .nop { State.reset with err := .base32DecodeError, ctrValid := true })).map statusWord =
      some 0x00000004 := by decide
/-- V-X16: an illegal word keeps the code outputs. -/
theorem test_illegal_v_x16 :
    (after (exec (.illegal 0x00000100) { State.reset with ctrValid := true, codeValid := true })).map statusWord =
      some 0x0000050C := by decide

/-! ### The register window (V-R, V-C16) -/

theorem test_read_ident : (after (step (withPending [.read 0x00 4]))).map (·.observed) = some [0x48443036] := by
  decide
/-- V-R6 and 30_encoding.md R78: the lanes of SECRET0. -/
theorem test_write_secret_lanes :
    (after (step (withPending [.write 0x10 4 0x4A425357]))).map (fun t => t.secret.toList.take 5) =
      some [0x4A, 0x42, 0x53, 0x57, 0x00] := by decide
/-- V-C16: a write to COUNTER_LO makes the counter valid. -/
theorem test_write_counter_lo :
    (after (step (withPending [.write 0x38 4 0]))).map statusWord = some 0x00000004 := by decide
/-- V-R7: the lanes of DIGEST2 and of CODE0. -/
theorem test_read_digest_and_code :
    let s := { State.reset with
      digest := padTo 20 (beBytes 20 0x75a48a19d4cbe100644e8ac1397eea747a2d33ab)
      code := padTo 6 (ascii "287082") }
    readReg (.digest 2) s = 0x644E8AC1 ∧ readReg .code0 s = 0x32383730 ∧ readReg .code1 s = 0x38320000 := by decide
/-- V-R2: a reserved offset. -/
theorem test_reserved_offset_ignores_writes :
    (after (step (withPending [.write 0x80 4 0x1234]))) = some State.reset := by decide
theorem test_halfword_read_is_refused :
    refusal (step (withPending [.read 0x08 2])) = some (.outsideInterface 0x08 2) := by decide
/-- Log entry 2, the model's choice: with nothing pending the block keeps its state. -/
theorem test_idle_step : after (step State.reset) = some State.reset := by decide
/-- Log entry 6: a reset keeps the host's lists. -/
theorem test_reset_event :
    after (step { codeState with pending := [.reset, .read 0x00 4], observed := [7] }) =
      some { State.reset with pending := [.read 0x00 4], observed := [7] } := by decide

/-! ### Functions -/

/-- V-H1 is an obligation; V-H3 and V-H4: the padding of the two hash inputs. -/
theorem test_padding_lengths : sha1ZeroBytes 72 = 47 ∧ sha1ZeroBytes 84 = 35 := by decide
/-- V-T4: the high nibble of the last byte is ignored. -/
theorem test_truncate_v_t4 :
    truncate (padTo 20 (beBytes 20 0x000000000000000000000000000000123456789f)) = 0x12345678 := by decide +kernel
/-- V-T3: the top bit is masked; the largest code value. -/
theorem test_truncate_v_t3 :
    reduceCode (truncate (padTo 20 (beBytes 20 0x111111111111111111111111111111ffffffff0f))) = 483647 := by
  decide +kernel

/-! ### Host-program text (30_encoding.md R76 to R78) -/

theorem test_parse_ld_secret_and_comment :
    parseProgram "ld.secret \"JBSW;\" ; a comment\n\ncmd DECODE" =
      .ok [.ldSecret (ascii "JBSW;"), .cmd .decode] := by rfl
theorem test_parse_numbers_and_names :
    parseProgram "wr COUNTER_LO, 2\nrd 0x80\ncmd.raw 0x00000106\nld.time -1" =
      .ok [.wr 0x38 2, .rd 0x80, .cmdRaw 0x106, .ldTime (-1)] := by rfl
theorem test_parse_bad_mnemonic : parseProgram "cmd HALT" = .error .unknownMnemonic := by rfl
theorem test_parse_unaligned_offset : parseProgram "rd 0x81" = .error .outOfRange := by rfl
/-- R78: the first and the last of the nine writes. -/
theorem test_expand_ld_secret :
    (expandOp (.ldSecret (ascii "JBSWY3DPEHPK3PXP")))[0]? = some (.write 0x10 4 0x4A425357) ∧
    (expandOp (.ldSecret (ascii "JBSWY3DPEHPK3PXP")))[8]? = some (.write 0x0C 4 16) ∧
    (expandOp (.ldSecret (ascii "JBSWY3DPEHPK3PXP"))).length = 9 := by decide

/-! ### Witnesses: the hypotheses of each obligation are met -/

theorem witness_DecodeOfEncodeIsTheInstruction :
    Instr.nop.wellFormed = true ∧ (Instr.illegal 0x00000006).wellFormed = true ∧
    (Instr.illegal 0x00000100).wellFormed = true ∧ (Instr.illegal 0xFFFFFFFF).wellFormed = true := by decide

theorem witness_OpFieldSelectsTheCommand :
    (0x00000005 : Word).extractLsb' 8 24 = 0 ∧ (0x00000005 : Word).extractLsb' 0 8 = 0x05 ∧
    (0x00000006 : Word).extractLsb' 8 24 = 0 ∧ 0x06 ≤ ((0x00000006 : Word).extractLsb' 0 8).toNat ∧
    (0x00000000 : Word).extractLsb' 8 24 = 0 ∧ (0x00000000 : Word).extractLsb' 0 8 = 0x00 := by decide

theorem witness_CommandWriteRunsTheDecodedCommand :
    (withPending [.write 0x04 4 0x00000005]).pending = .write 0x04 4 0x00000005 :: [] ∧
    (0x00000105 : Word).extractLsb' 8 24 ≠ 0 ∧
    ((0x00000004 : Word).extractLsb' 8 24 = 0 ∧
      (0x00000004 : Word).extractLsb' 0 8 = (0x00000004 : Word).extractLsb' 0 8) ∧
    (withPending [.read 0x04 4]).pending = .read 0x04 4 :: [] := by decide

theorem witness_ResetEventSetsEveryField : (withPending [.reset]).pending = .reset :: [] := by decide

theorem witness_ReadsHaveNoSideEffects :
    (0xFC : BitVec 8).toNat % 4 = 0 ∧ regAt 0xFC = some (.reserved 37) ∧
    (withPending [.read 0xFC 4]).pending = .read 0xFC 4 :: [] ∧
    (withPending [.read 0xFC 4, .read 0xFC 4]).pending = .read 0xFC 4 :: .read 0xFC 4 :: [] ∧
    (withPending [.read 0x04 4, .reset]).pending = .read 0x04 4 :: [.reset] ∧
    (withPending [.read 0x0C 4]).pending = .read 0x0C 4 :: [] ∧
    (withPending [.read 0x38 4]).pending = .read 0x38 4 :: [] ∧
    (withPending [.read 0x3C 4]).pending = .read 0x3C 4 :: [] := by decide

theorem witness_OnlyAccessesOutsideTheInterfaceStop :
    refusal (step (withPending [.read 0xFD 4])) = some (.outsideInterface 0xFD 4) ∧
    refusal (step (withPending [.write 0x04 3 0])) = some (.outsideInterface 0x04 3) := by decide

theorem witness_ProgramsInsideTheInterfaceNeverStop :
    (withPending [.write 0x04 4 0x00000106, .read 0x08 4, .reset]).programInside = true := by decide

theorem witness_IdentIsConstant :
    (withPending [.read 0x00 4]).pending = .read 0x00 4 :: [] ∧
    (withPending [.write 0x00 4 5]).pending = .write 0x00 4 5 :: [] := by decide

theorem witness_StatusHoldsTheFlagsAndErr :
    (withPending [.read 0x08 4]).pending = .read 0x08 4 :: [] ∧
    (withPending [.write 0x08 4 0xFFFFFFFF]).pending = .write 0x08 4 0xFFFFFFFF :: [] := by decide

theorem witness_SecretWordsHoldFourBytesEach :
    let k : Fin 8 := 7
    (withPending [.write 0x2C 4 1]).pending = .write (BitVec.ofNat 8 (0x10 + 4 * k.val)) 4 1 :: [] ∧
    (withPending [.read 0x2C 4]).pending = .read (BitVec.ofNat 8 (0x10 + 4 * k.val)) 4 :: [] := by decide

theorem witness_TimeHalvesAreWrittenApart :
    (withPending [.write 0x30 4 1]).pending = .write 0x30 4 1 :: [] ∧
    (withPending [.write 0x34 4 1]).pending = .write 0x34 4 1 :: [] ∧
    (withPending [.read 0x30 4]).pending = .read 0x30 4 :: [] ∧
    (withPending [.read 0x34 4]).pending = .read 0x34 4 :: [] := by decide

theorem witness_CounterWritesClearTheCodeOutputs :
    (withPending [.write 0x38 4 1]).pending = .write 0x38 4 1 :: [] ∧
    (withPending [.write 0x3C 4 1]).pending = .write 0x3C 4 1 :: [] := by decide

theorem witness_ReservedOffsetsReadZeroAndIgnoreWrites :
    ((0x68 : BitVec 8).toNat % 4 = 0 ∧ 0x68 ≤ (0x68 : BitVec 8).toNat ∧
      (withPending [.read 0x68 4]).pending = .read 0x68 4 :: []) ∧
    ((0xFC : BitVec 8).toNat % 4 = 0 ∧ 0x68 ≤ (0xFC : BitVec 8).toNat ∧
      (withPending [.write 0xFC 4 9]).pending = .write 0xFC 4 9 :: []) := by decide

theorem witness_TruncRegisterReadsZeroExtended :
    (withPending [.read 0x44 4]).pending = .read 0x44 4 :: [] ∧
    (withPending [.write 0x44 4 1]).pending = .write 0x44 4 1 :: [] := by decide

theorem witness_CodeRegistersHoldTheDigits :
    (withPending [.read 0x4C 4]).pending = .read 0x4C 4 :: [] ∧
    (withPending [.read 0x50 4]).pending = .read 0x50 4 :: [] ∧
    ((withPending [.write 0x50 4 1]).pending = .write 0x4C 4 1 :: [] ∨
      (withPending [.write 0x50 4 1]).pending = .write 0x50 4 1 :: []) ∧
    codeState.Inv ∧ codeState.codeValid = true :=
  ⟨by decide, by decide, by decide, codeState_inv, rfl⟩

theorem witness_ResultRegistersAreReadOnly :
    let k : Fin 5 := 4
    (withPending [.read 0x40 4]).pending = .read 0x40 4 :: [] ∧
    (withPending [.read 0x48 4]).pending = .read 0x48 4 :: [] ∧
    (withPending [.read 0x64 4]).pending = .read (BitVec.ofNat 8 (0x54 + 4 * k.val)) 4 :: [] ∧
    (withPending [.write 0x64 4 1]).pending = .write 0x64 4 1 :: [] ∧
    (0x64 : BitVec 8) = BitVec.ofNat 8 (0x54 + 4 * k.val) := by decide

theorem witness_HostWriteFrame :
    Reg.secretLen ≠ .cmd ∧
    (withPending [.write 0x0C 4 1]).pending = .write (regOffset .secretLen) 4 1 :: [] ∧
    Reg.counterHi ≠ .cmd ∧
    (withPending [.write 0x3C 4 1]).pending = .write (regOffset .counterHi) 4 1 :: [] := by decide

/-- BASE is open, so the witness is the first address past the window. -/
theorem witness_WindowStandsAtBase : Config.base + 0xFF < Config.base + 0x100 := by omega

theorem witness_DecodeStoresTheKey :
    decodeSecret (withSecret "JBSWY3DPEHPK3PXP").secret (withSecret "JBSWY3DPEHPK3PXP").secretLen =
      .ok (beBytes 10 0x48656c6c6f21deadbeef) := by rfl

theorem witness_FailedDecodeErasesTheKey :
    decodeSecret State.reset.secret State.reset.secretLen = .error .invalidSecretLength ∧
    decodeSecret State.reset.secret 32 = .error .base32DecodeError := ⟨rfl, rfl⟩

theorem witness_OtherSecretLengthsAreRejected :
    ((33 : Word).toNat ≠ 16 ∧ (33 : Word).toNat ≠ 26 ∧ (33 : Word).toNat ≠ 32) ∧
    ((0xFFFFFFFF : Word).toNat ≠ 16 ∧ (0xFFFFFFFF : Word).toNat ≠ 26 ∧ (0xFFFFFFFF : Word).toNat ≠ 32) := by decide

theorem witness_KeyIsTheBitStringOfTheValues :
    ((26 : Word).toNat = 16 ∨ (26 : Word).toNat = 26 ∨ (26 : Word).toNat = 32) ∧
    ∀ i : Fin 32, i.val < (26 : Word).toNat →
      base32Val (normalise (Vector.replicate 32 0x37)[i]) = some ((fun _ => 31 : Nat → Nat) i.val) := by decide

theorem witness_DecodingFailsExactlyOnANonAlphabetByte :
    ((32 : Word).toNat = 16 ∨ (32 : Word).toNat = 26 ∨ (32 : Word).toNat = 32) ∧
    (∃ i : Fin 32, i.val < (32 : Word).toNat ∧ base32Val (normalise State.reset.secret[i]) = none) ∧
    (∀ i : Fin 32, i.val < (16 : Word).toNat →
      (padTo 32 (List.replicate 17 0))[i] = (Vector.replicate 32 0 : Vector Byte 32)[i]) := by decide

theorem witness_AlphabetValues :
    (0x41 ≤ (0x5A : Byte).toNat ∧ (0x5A : Byte).toNat ≤ 0x5A) ∧
    (0x61 ≤ (0x7A : Byte).toNat ∧ (0x7A : Byte).toNat ≤ 0x7A) ∧
    (0x32 ≤ (0x37 : Byte).toNat ∧ (0x37 : Byte).toNat ≤ 0x37) ∧
    (0x5A < (0x5B : Byte).toNat ∧ (0x5B : Byte).toNat < 0x61) := by decide

/-- V-D5 and V-D6, and two 16-byte secrets with one key. -/
theorem witness_TrailingBitsOfA26ByteSecretAreIgnored :
    let a := (withSecret "AAAQEAYEAUDAOCAJBIFQYDIOB4").secret
    let b := (withSecret "AAAQEAYEAUDAOCAJBIFQYDIOB7").secret
    let c := (withSecret "jbswy3dpehpk3pxp").secret
    ((∀ i : Fin 32, i.val < 25 → a[i] = b[i]) ∧ base32Val (normalise a[25]) = some 28 ∧
      base32Val (normalise b[25]) = some 31 ∧ 28 / 4 = 31 / 4) ∧
    (decodeSecret (withSecret "JBSWY3DPEHPK3PXP").secret 16 = .ok (beBytes 10 0x48656c6c6f21deadbeef) ∧
      decodeSecret c 16 = .ok (beBytes 10 0x48656c6c6f21deadbeef)) :=
  ⟨by decide +kernel, rfl, rfl⟩

theorem witness_CounterTakesTheTimeStep :
    0 ≤ { State.reset with time := 0x7FFFFFFFFFFFFFFF }.time.toInt ∧ 0 ≤ State.reset.time.toInt := by decide

theorem witness_CounterRejectsTimesBeforeTheEpoch :
    { State.reset with time := 0xFFFFFFFFFFFFFFFF }.time.toInt < 0 ∧
    { State.reset with time := 0x8000000000000000 }.time.toInt < 0 := by decide

theorem witness_DerivedCounterIsTheFloorAndBounded : 0 ≤ (0x7FFFFFFFFFFFFFFF : BitVec 64).toInt := by decide

/-- S4: 30 and 59 in one step, 59 and 60 in two. -/
theorem witness_SameStepSameCounterAndCode :
    (0 ≤ (30 : BitVec 64).toInt ∧ (30 : BitVec 64).toInt < (59 : BitVec 64).toInt ∧
      deriveCounter 30 = .ok 1 ∧ deriveCounter 59 = .ok 1) ∧
    ((59 : BitVec 64).toInt < (60 : BitVec 64).toInt ∧ deriveCounter 60 = .ok 2) :=
  ⟨⟨by decide, by decide, rfl, rfl⟩, by decide, rfl⟩

theorem witness_MessageScheduleMeetsTheRecurrence : (List.replicate 16 (0 : Word)).length = 16 := by decide

theorem witness_TrailingZeroBytesOfAKeyDoNotCount : (List.replicate 16 (1 : Byte)).length + 48 ≤ 64 := by decide

theorem witness_TruncateIgnoresTheMaskedBits :
    let dg : Vector Byte 20 := Vector.replicate 20 0xFF
    let o : Fin 16 := 15
    o.val = dg[19].toNat % 16 ∧ (0x0F : Byte).toNat % 16 = o.val := by decide

theorem witness_FormatWritesSixDecimalDigits : 999999 < 1000000 := by decide

theorem witness_GenerateWritesTheCode : codeState.keyValid = true ∧ codeState.ctrValid = true := ⟨rfl, rfl⟩

theorem witness_GenerateNeedsAKeyAndACounter :
    State.reset.keyValid = false ∨ State.reset.ctrValid = false := by decide

theorem witness_GenerateUsesATornCounter :
    let s (off : BitVec 8) := { codeState with pending := [.write off 4 2, .write 0x04 4 0x00000003] }
    (s 0x38).keyValid = true ∧ (s 0x38).pending = .write 0x38 4 2 :: .write 0x04 4 0x00000003 :: [] ∧
    (s 0x3C).keyValid = true ∧ (s 0x3C).pending = .write 0x3C 4 2 :: .write 0x04 4 0x00000003 :: [] :=
  ⟨rfl, rfl, rfl, rfl⟩

theorem witness_TotpWritesTheCodeAndErasesTheKey :
    let s := withSecret "JBSWY3DPEHPK3PXP"
    decodeSecret s.secret s.secretLen = .ok (beBytes 10 0x48656c6c6f21deadbeef) ∧ 0 ≤ s.time.toInt :=
  ⟨rfl, by decide⟩

theorem witness_TotpFailuresLeaveNoOutput :
    let s := { withSecret "JBSWY3DPEHPK3PXP" with time := 0xFFFFFFFFFFFFFFFF }
    decodeSecret State.reset.secret State.reset.secretLen = .error .invalidSecretLength ∧
    decodeSecret s.secret s.secretLen = .ok (beBytes 10 0x48656c6c6f21deadbeef) ∧ s.time.toInt < 0 :=
  ⟨rfl, rfl, by decide⟩

/-- Every command completes, so the three stages do from any state. -/
theorem witness_TotpIsTheSequenceOfTheStages :
    ∃ s1 s2 s3, exec .decode (withSecret "JBSWY3DPEHPK3PXP") = .next s1 ∧ exec .counter s1 = .next s2 ∧
      exec .generate s2 = .next s3 ∧ s1.err = .none ∧ s2.err = .none ∧ s3.err = .none :=
  ⟨_, _, _, exec_decode_ok rfl, exec_counter_ok rfl, exec_generate_ok rfl rfl, rfl, rfl, rfl⟩

/-- Two states that differ in the key, the counter and the secret's last bytes. -/
theorem witness_TotpDependsOnItsInputsOnly :
    let s := withSecret "JBSWY3DPEHPK3PXP"
    let s' := { codeState with secret := padTo 32 (ascii "JBSWY3DPEHPK3PXPXXXX"), secretLen := 16 }
    s.secretLen = s'.secretLen ∧ s.time = s'.time ∧
    (∀ i : Fin 32, i.val < s.secretLen.toNat → s.secret[i] = s'.secret[i]) ∧
    (∃ t, exec .totp s = .next t ∧ t.err = .none) ∧ (∃ t', exec .totp s' = .next t' ∧ t'.err = .none) :=
  ⟨rfl, rfl, by decide +kernel, ⟨_, exec_totp_ok rfl rfl, rfl⟩, ⟨_, exec_totp_ok rfl rfl, rfl⟩⟩

theorem witness_ZeroizeErasesSecretAndKey :
    ∃ t, exec .zeroize State.reset = .next t ∧ State.reset.ctrValid = false := ⟨_, rfl, rfl⟩

theorem witness_NopClearsErrOnly :
    let s := { State.reset with err := .base32DecodeError }
    (∀ u : State, exec .nop u = .next { u with err := .none }) ∧
    s.err = .base32DecodeError ∧ ∃ t, exec .nop s = .next t := ⟨fun _ => rfl, rfl, _, rfl⟩

theorem witness_IllegalWordsSetErrFiveOnly :
    ((0x00000100 : Word).extractLsb' 8 24 ≠ 0 ∨ 0x06 ≤ ((0x00000100 : Word).extractLsb' 0 8).toNat) ∧
    ((0x000000FF : Word).extractLsb' 8 24 ≠ 0 ∨ 0x06 ≤ ((0x000000FF : Word).extractLsb' 0 8).toNat) ∧
    (withPending [.write 0x04 4 0x00000100]).pending = .write 0x04 4 0x00000100 :: [] := by decide

theorem witness_ErrDescribesTheLastCommandOnly :
    let s := { withPending [.write 0x0C 4 16] with err := .clockError }
    let u := { withPending [.read 0x08 4] with err := .clockError }
    (∃ t, exec .totp s = .next t) ∧
    ((0x0C : BitVec 8) ≠ 0x04 ∧ s.pending = .write 0x0C 4 16 :: [] ∧ ∃ t, step s = .next t) ∧
    (u.pending = .read 0x08 4 :: [] ∧ ∃ t, step u = .next t) :=
  ⟨exec_next _ _, ⟨by decide, rfl, _, rfl⟩, rfl, _, rfl⟩

theorem witness_FirstFailingCheckIsReported :
    let a := { State.reset with secretLen := 15, time := 0xFFFFFFFFFFFFFFFF }
    let b := { withSecret "JBSWY3DPEHPK3PX1" with time := 0xFFFFFFFFFFFFFFFF }
    let c := { withSecret "JBSWY3DPEHPK3PXP" with time := 0xFFFFFFFFFFFFFFFF }
    (a.secretLen = 15 ∧ a.secretLen.toNat ∉ [16, 26, 32] ∧ ∃ t, exec .totp a = .next t) ∧
    (b.secretLen.toNat ∈ [16, 26, 32] ∧
      (∃ j : Fin 32, j.val < b.secretLen.toNat ∧ base32Val (normalise b.secret[j]) = none) ∧
      ∃ t, exec .decode b = .next t) ∧
    (c.secretLen.toNat ∈ [16, 26, 32] ∧
      (∀ j : Fin 32, j.val < c.secretLen.toNat → base32Val (normalise c.secret[j]) ≠ none) ∧
      c.time.toInt < 0 ∧ ∃ t, exec .totp c = .next t) ∧
    (∃ t, exec .generate State.reset = .next t ∧ t.err = .sequenceError) :=
  ⟨⟨rfl, by decide, exec_next _ _⟩, ⟨by decide, by decide +kernel, exec_next _ _⟩,
    ⟨by decide, by decide +kernel, by decide, exec_next _ _⟩, _, rfl, rfl⟩

theorem witness_CommandFrames :
    (∃ t, exec .decode codeState = .next t) ∧ (∃ t, exec .counter codeState = .next t) ∧
    (∃ t, exec (.illegal 6) codeState = .next t) := ⟨exec_next _ _, exec_next _ _, exec_next _ _⟩

theorem witness_KeyIsOverwrittenOnEveryExitPath :
    (∃ t, exec .totp codeState = .next t) ∧ (∃ t, exec .zeroize codeState = .next t) ∧
    (∃ t, exec .decode codeState = .next t ∧ t.err ≠ .none) ∧
    (∃ t, step { codeState with pending := [.reset] } = .next t) :=
  ⟨exec_next _ _, exec_next _ _, ⟨_, exec_decode_error rfl, by decide⟩, _, rfl⟩

theorem witness_KeyIsHiddenFromTheHost :
    let s := { codeState with pending := [.write 0x04 4 0x00000004] }
    (∀ (w : Word) (rest : List HostEvent), s.pending = .write 0x04 4 w :: rest → decodeWord w ≠ .generate) ∧
    ∃ t, step s = .next t := by
  refine ⟨fun w rest h => ?_, ?_⟩
  · simp only [List.cons.injEq, HostEvent.write.injEq, true_and] at h
    rw [← h.1]
    decide
  · rw [step_command (w := 0x00000004) (rest := []) rfl]
    exact exec_next _ _

theorem witness_EveryStepKeepsTheInvariant :
    let s := { codeState with pending := [.write 0x04 4 0x00000003] }
    s.Inv ∧ ∃ t, step s = .next t := by
  refine ⟨codeState_inv.host _ _, ?_⟩
  rw [step_command (w := 0x00000003) (rest := []) rfl]
  exact exec_next _ _

theorem witness_EveryReachableStateMeetsTheInvariant :
    Reachable (resetBlock (withPending [])) := .step (.reset [.reset]) rfl

/-- The counter stays at a read, and TOTP changes it. -/
theorem witness_CounterStaysWhileTheCodeIsValid :
    let s := { withSecret "JBSWY3DPEHPK3PXP" with time := 59, pending := [.write 0x04 4 0x00000004] }
    (∃ t, step { codeState with pending := [.read 0x4C 4] } = .next t ∧ t.codeValid = true) ∧
    (∃ t, step s = .next t ∧ t.codeValid = true ∧ t.counter ≠ s.counter) := by
  refine ⟨⟨_, step_read (r := .code0) rfl rfl, rfl⟩, ?_⟩
  rw [step_command (w := 0x00000004) (rest := []) rfl]
  exact ⟨_, exec_totp_ok rfl rfl, rfl, by decide⟩

theorem witness_LdSecretLoadsTheSecret :
    (List.replicate 32 (0x41 : Byte)).length ≤ 32 ∧
    (withPending (expandOp (.ldSecret (List.replicate 32 0x41)))).pending =
      expandOp (.ldSecret (List.replicate 32 0x41)) ++ [] := ⟨by decide, (List.append_nil _).symm⟩

theorem witness_LdTimeAndLdCounterLoadBothHalves :
    (-(2 ^ 63) ≤ (-(2 ^ 63) : Int) ∧ (-(2 ^ 63) : Int) < 2 ^ 63 ∧
      (withPending (expandOp (.ldTime (-(2 ^ 63))))).pending = expandOp (.ldTime (-(2 ^ 63))) ++ []) ∧
    (2 ^ 64 - 1 < 2 ^ 64 ∧
      (withPending (expandOp (.ldCounter (2 ^ 64 - 1)))).pending = expandOp (.ldCounter (2 ^ 64 - 1)) ++ []) := by
  decide

end Sys2Proof.Tests
end

section
/-! PROOFS. The obligations of 10_state.md on the single registers. First the facts about the window they need and
the laws do not state: ignored writes, reserved offsets, STATUS as a number, byte lanes, digits, reset values. -/

namespace Sys2Proof.Machine

/-! ### Accesses to a register -/

/-- A write to a register that stores nothing is served and has no other effect (20_memory.md R59). -/
theorem step_write_ignored {s : State} {off : BitVec 8} {r : Reg} {v : Word} {rest : List HostEvent}
    (hr : regAt off = some r) (hc : r ≠ .cmd) (hs : ¬ Stored r) (h : s.pending = .write off 4 v :: rest) :
    step s = .next { s with pending := rest } := by
  rw [step_write hr hc h, writeReg_of_not_stored r v _ hs]

/-- The aligned offsets from 0x68 on are those of the reserved registers (10_state.md R38). -/
theorem exists_regAt_eq_reserved {off : BitVec 8} (h4 : off.toNat % 4 = 0) (h : 0x68 ≤ off.toNat) :
    ∃ k, regAt off = some (.reserved k) := by
  have hlt := off.isLt
  let k : Fin 38 := ⟨(off.toNat - 0x68) / 4, by omega⟩
  have hoff : regOffset (.reserved k) = off := by
    apply BitVec.eq_of_toNat_eq
    simp only [regOffset, k, BitVec.toNat_ofNat]
    omega
  exact ⟨k, hoff ▸ regAt_regOffset (.reserved k)⟩

/-! ### Fields of a word, from its number -/

/-- A bit of a vector is the parity of its number shifted down. -/
theorem getLsbD_eq_of_toNat {w i : Nat} {v : BitVec w} {b : Bool} (h : v.toNat / 2 ^ i % 2 = b.toNat) :
    v.getLsbD i = b := by
  rw [← BitVec.testBit_toNat, Nat.testBit_eq_decide_div_mod_eq, h]
  cases b <;> rfl

/-- A field of a vector is its number shifted down and reduced. -/
theorem extractLsb'_eq_of_toNat {w i n : Nat} {v : BitVec w} {x : BitVec n}
    (h : v.toNat / 2 ^ i % 2 ^ n = x.toNat) : v.extractLsb' i n = x := by
  apply BitVec.eq_of_toNat_eq
  rw [BitVec.extractLsb'_toNat, Nat.shiftRight_eq_div_pow, h]

/-! ### STATUS -/

@[simp] theorem flagWord_toNat (b : Bool) : (flagWord b).toNat = b.toNat := by
  cases b <;> rfl

/-- STATUS as a number: its four fields at their places do not overlap (10_state.md R26). -/
theorem statusWord_toNat (s : State) : (statusWord s).toNat =
    s.err.code.toNat * 256 + s.codeValid.toNat * 8 + s.ctrValid.toNat * 4 + s.keyValid.toNat * 2 := by
  have he := s.err.code.isLt
  have hv := s.codeValid.toNat_lt
  have hc := s.ctrValid.toNat_lt
  have hk := s.keyValid.toNat_lt
  simp only [statusWord, BitVec.toNat_or, BitVec.toNat_shiftLeft, BitVec.toNat_setWidth, flagWord_toNat,
    Nat.shiftLeft_eq]
  generalize s.err.code.toNat = e at *
  generalize s.codeValid.toNat = v at *
  generalize s.ctrValid.toNat = c at *
  generalize s.keyValid.toNat = k at *
  have e8 : e % 2 ^ 32 * 2 ^ 8 % 2 ^ 32 = e * 2 ^ 8 := by omega
  have v3 : v * 2 ^ 3 % 2 ^ 32 = v * 2 ^ 3 := by omega
  have c2 : c * 2 ^ 2 % 2 ^ 32 = c * 2 ^ 2 := by omega
  have k1 : k * 2 ^ 1 % 2 ^ 32 = k * 2 ^ 1 := by omega
  rw [e8, v3, c2, k1, mul_two_pow_or (by omega),
    show e * 2 ^ 8 + v * 2 ^ 3 = (e * 2 ^ 5 + v) * 2 ^ 3 by ring, mul_two_pow_or (by omega),
    show (e * 2 ^ 5 + v) * 2 ^ 3 + c * 2 ^ 2 = (e * 2 ^ 6 + v * 2 + c) * 2 ^ 2 by ring,
    mul_two_pow_or (by omega)]
  ring

/-! ### SECRET and CODE -/

/-- A write of word k stores lane j of the value at byte 4k + j (10_state.md R28). -/
theorem setSecretWord_getElem_lane (b : Vector Byte 32) (k : Fin 8) (v : Word) (j : Nat) (hj : j < 4) :
    (setSecretWord b k v)[4 * k.val + j]'(by omega) = byteLane v j := by
  rw [setSecretWord_getElem, if_pos (by omega), show (4 * k.val + j) % 4 = j by omega]

/-- The digits of a code, read as a decimal number, give the number back (43_generate.md R143). -/
theorem formatCode_digits {x : Nat} (h : x < 1000000) :
    ((formatCode x)[0].toNat - 0x30) * 100000 + ((formatCode x)[1].toNat - 0x30) * 10000
      + ((formatCode x)[2].toNat - 0x30) * 1000 + ((formatCode x)[3].toNat - 0x30) * 100
      + ((formatCode x)[4].toNat - 0x30) * 10 + ((formatCode x)[5].toNat - 0x30) = x := by
  simp only [formatCode_getElem_toNat, Nat.add_sub_cancel_left]
  omega

/-! ### The reset state -/

/-- The registers after reset (10_state.md R45). -/
theorem readReg_reset (r : Reg) : readReg r State.reset = if r = .ident then 0x48443036 else 0x00000000 := by
  cases r with
  | secret k => simp [readReg, secretWord, State.reset, packWord]
  | digest k => simp [readReg, digestWord, State.reset, packWord]
  | _ => rfl

/-! ### The obligations -/

/-- Settles O11, by the lanes of `setSecretWord` and `packWord`. -/
theorem secretWordsHoldFourBytesEach : Obligations.SecretWordsHoldFourBytesEach := by
  intro s k v rest
  have hr := regAt_regOffset (.secret k)
  refine ⟨fun h => ⟨setSecretWord s.secret k v, step_write hr (by simp) h, ?_⟩, fun h => ?_⟩
  · have lane := setSecretWord_getElem_lane s.secret k v
    refine ⟨lane 0 (by decide), lane 1 (by decide), lane 2 (by decide), lane 3 (by decide), fun i hi => ?_,
      secretWord_setSecretWord s.secret k v⟩
    exact (setSecretWord_getElem s.secret k v i.val i.isLt).trans (if_neg hi)
  · exact ⟨secretWord s.secret k, step_read hr h, byteLane_packWord _ _ _ _⟩

/-- Settles O16: the lanes by the number of `packWord`, the digits by (I4) and (I7) of the invariant. -/
theorem codeRegistersHoldTheDigits : Obligations.CodeRegistersHoldTheDigits := by
  refine ⟨fun s rest => ⟨fun h => ⟨_, step_read (r := .code0) rfl h, packWord_toNat _ _ _ _⟩,
    fun h => ⟨_, step_read (r := .code1) rfl h, ?_, ?_⟩, ?_⟩, fun s hs hv => ?_⟩
  · simp [readReg, packWord_toNat]
  · apply extractLsb'_eq_of_toNat
    simp only [readReg, packWord_toNat, BitVec.ofNat_eq_ofNat, BitVec.toNat_zero]
    omega
  · rintro v (h | h)
    · exact step_write_ignored (r := .code0) rfl (by decide) (by simp [Stored]) h
    · exact step_write_ignored (r := .code1) rfl (by decide) (by simp [Stored]) h
  · obtain ⟨-, -, hcode⟩ := hs.derived hv
    rw [hcode]
    refine ⟨fun i => ?_, (formatCode_digits hs.codeInt_lt).symm⟩
    have hd := formatCode_getElem_toNat s.codeInt.toNat i.val i.isLt
    simp only [Fin.getElem_fin, hd]
    omega

/-- Settles O3: a word with RSV = 0 is its OP field, so the OP fields decide. -/
theorem commandWriteRunsTheDecodedCommand : Obligations.CommandWriteRunsTheDecodedCommand := by
  refine ⟨fun s w rest h => step_command h, fun w hw => if_pos hw, fun w w' hw hw' hop => ?_,
    fun s rest h => step_read (r := .cmd) rfl h⟩
  have hlt := (cmdRsv_eq_zero_iff w).mp hw
  have hlt' := (cmdRsv_eq_zero_iff w').mp hw'
  have hop : (cmdOp w).toNat = (cmdOp w').toNat := congrArg BitVec.toNat hop
  rw [cmdOp_toNat, cmdOp_toNat, Nat.mod_eq_of_lt hlt, Nat.mod_eq_of_lt hlt'] at hop
  rw [BitVec.eq_of_toNat_eq hop]

/-- Settles O5: the fields by definition, the registers by `readReg_reset`. -/
theorem resetValuesOfEveryField : Obligations.ResetValuesOfEveryField :=
  ⟨rfl, rfl, rfl, rfl, rfl, rfl, rfl, rfl, rfl, rfl, rfl, rfl, rfl, rfl, rfl, readReg_reset⟩

/-- Settles O9: IDENT is a constant and not a stored register. -/
theorem identIsConstant : Obligations.IdentIsConstant :=
  ⟨fun _ _ h => step_read (r := .ident) rfl h,
    fun _ _ _ h => step_write_ignored (r := .ident) rfl (by decide) (by simp [Stored]) h, by decide⟩

/-- Settles O10: every field of STATUS is read off the word's number. -/
theorem statusHoldsTheFlagsAndErr : Obligations.StatusHoldsTheFlagsAndErr := by
  intro s rest
  refine ⟨fun h => ⟨statusWord s, step_read (r := .status) rfl h, ?_⟩,
    fun v h => step_write_ignored (r := .status) rfl (by decide) (by simp [Stored]) h, by decide⟩
  have hw := statusWord_toNat s
  have he := s.err.code.isLt
  have hv := s.codeValid.toNat_lt
  have hc := s.ctrValid.toNat_lt
  have hk := s.keyValid.toNat_lt
  refine ⟨getLsbD_eq_of_toNat ?_, getLsbD_eq_of_toNat ?_, getLsbD_eq_of_toNat ?_, getLsbD_eq_of_toNat ?_,
    extractLsb'_eq_of_toNat ?_, extractLsb'_eq_of_toNat ?_, extractLsb'_eq_of_toNat ?_, hw⟩
  all_goals
    simp only [hw, Bool.toNat_false, BitVec.ofNat_eq_ofNat, BitVec.toNat_zero]
    omega

/-- Settles O13: the half not written keeps its value because `joinHalves` keeps its two halves apart. -/
theorem counterWritesClearTheCodeOutputs : Obligations.CounterWritesClearTheCodeOutputs := fun s v _ =>
  ⟨fun h => ⟨joinHalves (hiHalf s.counter) v, loHalf_joinHalves _ _, hiHalf_joinHalves _ _,
      step_write (r := .counterLo) rfl (by decide) h⟩,
    fun h => ⟨joinHalves v (loHalf s.counter), hiHalf_joinHalves _ _, loHalf_joinHalves _ _,
      step_write (r := .counterHi) rfl (by decide) h⟩⟩

/-- Settles O14: each such offset is a reserved register, which is not a stored one. -/
theorem reservedOffsetsReadZeroAndIgnoreWrites : Obligations.ReservedOffsetsReadZeroAndIgnoreWrites := by
  intro s off rest h4 h
  obtain ⟨k, hr⟩ := exists_regAt_eq_reserved h4 h
  exact ⟨fun hp => step_read hr hp, fun v hp => step_write_ignored hr (by simp) (by simp [Stored]) hp⟩

/-- Settles O15: a zero-extended 31-bit value keeps its number, which is below 2^31. -/
theorem truncRegisterReadsZeroExtended : Obligations.TruncRegisterReadsZeroExtended := by
  intro s rest
  have hlt := s.trunc.isLt
  have hn : (readReg .trunc s).toNat = s.trunc.toNat := BitVec.toNat_setWidth_of_le (by decide)
  refine ⟨fun h => ⟨_, step_read (r := .trunc) rfl h, hn, getLsbD_eq_of_toNat ?_⟩,
    fun v h => step_write_ignored (r := .trunc) rfl (by decide) (by simp [Stored]) h⟩
  rw [hn, Bool.toNat_false]
  omega

end Sys2Proof.Machine
end

section
/-! PROOFS. The obligation of 20_memory.md on reads. What it turns on is that a register reads the fields of the
block alone, so the value a read appends to the host's list does not change what the next read returns. -/

namespace Sys2Proof.Machine

/-- Two reads of one register in a row return the same value (20_memory.md R58). -/
theorem run_two_reads {s : State} {off : BitVec 8} {r : Reg} {rest : List HostEvent} (hr : regAt off = some r)
    (h : s.pending = .read off 4 :: .read off 4 :: rest) :
    Host.Core.run core 2 s =
      .next { s with pending := rest, observed := s.observed ++ [readReg r s, readReg r s] } := by
  rw [run_succ (step_read hr h), run_succ (step_read hr rfl), run_zero]
  simp only [readReg_host, List.append_assoc, List.cons_append, List.nil_append]

/-- Settles O6, by `step_read` at each register and `run_two_reads`. -/
theorem readsHaveNoSideEffects : Obligations.ReadsHaveNoSideEffects :=
  ⟨exists_regAt, fun _ _ _ _ hr => ⟨step_read hr, run_two_reads hr⟩, fun _ _ =>
    ⟨step_read (r := .cmd) rfl, step_read (r := .secretLen) rfl, step_read (r := .counterLo) rfl,
      step_read (r := .counterHi) rfl⟩⟩

end Sys2Proof.Machine
end

section
/-! PROOFS. The opcode map of 30_encoding.md. What it turns on is that a word with RSV = 0 is its OP field
zero-extended, so the OP value alone names the word and the decoder runs on a literal. -/

namespace Sys2Proof

/-- A word whose RSV field is 0 is its OP field zero-extended (30_encoding.md R70). -/
theorem eq_setWidth_cmdOp {w : Word} (hr : cmdRsv w = 0) : w = (cmdOp w).setWidth 32 := by
  have hlt := (cmdRsv_eq_zero_iff w).mp hr
  rw [← BitVec.toNat_inj, BitVec.toNat_setWidth_of_le (by decide), cmdOp_toNat, Nat.mod_eq_of_lt hlt]

/-- With RSV = 0 a word decodes as the literal word of its OP value (30_encoding.md R72). -/
theorem decodeWord_of_fields {w : Word} {op : BitVec 8} (hr : cmdRsv w = 0) (ho : cmdOp w = op) :
    decodeWord w = decodeWord (op.setWidth 32) := by
  rw [← ho, ← eq_setWidth_cmdOp hr]

/-- An OP value from 0x06 on selects no command, whatever RSV is (30_encoding.md R73). -/
theorem decodeWord_of_reserved_op {w : Word} (ho : 6 ≤ (cmdOp w).toNat) : decodeWord w = .illegal w := by
  rw [cmdOp_toNat] at ho
  exact decodeWord_illegal (ho.trans (Nat.mod_le _ _))

/-- Settles O2: each OP value below 0x06 by `decodeWord_of_fields` on its literal word, the others by
`decodeWord_of_reserved_op`. -/
theorem opFieldSelectsTheCommand : Obligations.OpFieldSelectsTheCommand := by
  refine ⟨fun w hr => ?_, rfl, rfl, rfl, rfl, rfl, rfl⟩
  have selects {op : BitVec 8} {i : Instr} (hi : decodeWord (op.setWidth 32) = i)
      (ho : w.extractLsb' 0 8 = op) : decodeWord w = i := (decodeWord_of_fields hr ho).trans hi
  exact ⟨selects rfl, selects rfl, selects rfl, selects rfl, selects rfl, selects rfl,
    decodeWord_of_reserved_op⟩

end Sys2Proof
end

section
/-! PROOFS. The obligations of 40_decode.md on DecodeSecret. What they turn on is the last step of the bit string:
at 26 bytes the two bits shifted out are the low bits of the last value alone, and at 16 and 32 bytes no bit is
shifted out, so the key's number is the bit string and its base-32 digits are the values. -/

namespace Sys2Proof.Machine

/-! ### The values and the bit string they make -/

/-- A byte with a value at the end of a secret appends that value. -/
theorem base32Values_append_singleton (cs : List Byte) {c : Byte} {v : Nat}
    (h : base32Val (normalise c) = some v) :
    base32Values (cs ++ [c]) = (base32Values cs).map (· ++ [v]) := by
  cases e : base32Values cs with
  | none =>
    obtain ⟨d, hd, hv⟩ := (base32Values_eq_none_iff cs).mp e
    exact (base32Values_eq_none_iff _).mpr ⟨d, List.mem_append_left _ hd, hv⟩
  | some vs =>
    refine (base32Values_eq_some_iff _ _).mpr ?_
    simp only [List.map_append, (base32Values_eq_some_iff cs vs).mp e, List.map_cons, List.map_nil, h]

/-- Each value of a secret has five bits. -/
theorem base32Values_lt {cs : List Byte} {vs : List Nat} (h : base32Values cs = some vs) :
    ∀ v ∈ vs, v < 32 := by
  intro v hv
  have hm : some v ∈ cs.map (fun c => base32Val (normalise c)) :=
    (base32Values_eq_some_iff cs vs).mp h ▸ List.mem_map_of_mem hv
  obtain ⟨c, -, hc⟩ := List.mem_map.mp hm
  exact base32Val_lt hc

/-- The values are the base-32 digits of the bit string, the first one most significant (40_decode.md R93). -/
theorem bitString_eq_ofDigits (vs : List Nat) : bitString vs = Nat.ofDigits 32 vs.reverse := by
  induction vs using List.reverseRecOn with
  | nil => rfl
  | append_singleton vs v ih =>
    rw [bitString_append_singleton, ih, List.reverse_concat, Nat.ofDigits_cons]
    ring

/-- As many values below 32 with the same bit string are the same values. -/
theorem bitString_inj {vs ws : List Nat} (hl : vs.length = ws.length) (hv : ∀ v ∈ vs, v < 32)
    (hw : ∀ w ∈ ws, w < 32) (h : bitString vs = bitString ws) : vs = ws := by
  rw [bitString_eq_ofDigits, bitString_eq_ofDigits] at h
  exact List.reverse_injective <| Nat.ofDigits_inj_of_len_eq (by decide) (by simpa using hl)
    (by simpa using hv) (by simpa using hw) h

/-! ### Which bits of the secret reach the key (40_decode.md R94) -/

/-- A 26-byte secret whose last byte has a value: the key takes only the upper three bits of that value. -/
theorem decodeSecret_26 {a : Vector Byte 32} {x : Nat} (hx : base32Val (normalise a[25]) = some x) :
    decodeSecret a 26 = (base32Values (a.toList.take 25)).elim (.error .base32DecodeError)
      fun vs => .ok (beBytes 16 (bitString vs * 8 + x / 4)) := by
  have ht : a.toList.take 26 = a.toList.take 25 ++ [a[25]] := by
    simp [List.take_succ_eq_append_getElem]
  have hshift (vs : List Nat) : bitString (vs ++ [x]) >>> 2 = bitString vs * 8 + x / 4 := by
    rw [bitString_append_singleton, Nat.shiftRight_eq_div_pow]
    omega
  have hvals := base32Values_append_singleton (a.toList.take 25) hx
  rw [← ht] at hvals
  cases e : base32Values (a.toList.take 25) with
  | none =>
    rw [e] at hvals
    simp [decodeSecret, Config.secretLengths, hvals]
  | some vs =>
    rw [e] at hvals
    simp [decodeSecret, Config.secretLengths, hvals, hshift]

/-- When the bits of n values fill whole bytes, they are the bits of that many bytes. -/
theorem pow_32_eq_pow_256 {n : Nat} (h : 8 ∣ 5 * n) : 32 ^ n = 256 ^ (5 * n / 8) :=
  calc 32 ^ n = 2 ^ (5 * n) := (pow_mul 2 5 n).symm
    _ = 2 ^ (8 * (5 * n / 8)) := by rw [Nat.mul_div_cancel' h]
    _ = 256 ^ (5 * n / 8) := pow_mul 2 8 _

/-- When the bits of the secret fill whole bytes, the key's number is the whole bit string. -/
theorem intBe_decodeSecret {secret : Vector Byte 32} {n : Word} {k : List Byte} (hn : 8 ∣ 5 * n.toNat)
    (h : decodeSecret secret n = .ok k) :
    ∃ vs, base32Values (secret.toList.take n.toNat) = some vs ∧ intBe k = bitString vs := by
  rcases decodeSecret_cases secret n with ⟨-, e⟩ | ⟨-, -, e⟩ | ⟨hmem, vs, hvs, e⟩
  · cases e.symm.trans h
  · cases e.symm.trans h
  · refine ⟨vs, hvs, ?_⟩
    cases e.symm.trans h
    have hle : n.toNat ≤ 32 := by
      simp only [List.mem_cons, List.not_mem_nil, or_false] at hmem
      omega
    have hlen : vs.length = n.toNat := by
      simpa [hle] using base32Values_length hvs
    have hlt := bitString_lt vs (base32Values_lt hvs)
    rw [hlen, pow_32_eq_pow_256 hn] at hlt
    rw [Nat.mul_div_cancel' hn, Nat.sub_self, Nat.shiftRight_zero, intBe_beBytes, Nat.mod_eq_of_lt hlt]

/-- When the bits of the secret fill whole bytes, the key determines the values. -/
theorem base32Values_of_same_key {a b : Vector Byte 32} {n : Word} {k : List Byte}
    (hn : 8 ∣ 5 * n.toNat) (ha : decodeSecret a n = .ok k) (hb : decodeSecret b n = .ok k) :
    ∃ vs, base32Values (a.toList.take n.toNat) = some vs ∧
      base32Values (b.toList.take n.toNat) = some vs := by
  obtain ⟨vs, hvs, hka⟩ := intBe_decodeSecret hn ha
  obtain ⟨ws, hws, hkb⟩ := intBe_decodeSecret hn hb
  have hl : vs.length = ws.length := by
    rw [base32Values_length hvs, base32Values_length hws]
    simp
  obtain rfl := bitString_inj hl (base32Values_lt hvs) (base32Values_lt hws) (hka.symm.trans hkb)
  exact ⟨vs, hvs, hws⟩

/-! ### The obligations -/

/-- Settles O26: 26 bytes by `decodeSecret_26`, 16 and 32 bytes by `base32Values_of_same_key`. -/
theorem trailingBitsOfA26ByteSecretAreIgnored : Obligations.TrailingBitsOfA26ByteSecretAreIgnored := by
  refine ⟨fun a b x y hab hx hy hxy => ?_, fun a b n k hn ha hb i hi => ?_⟩
  · have hpre : a.toList.take 25 = b.toList.take 25 := by
      apply List.ext_getElem (by simp)
      intro i h1 h2
      have hi : i < 25 := by simpa using h1
      simpa using hab ⟨i, by omega⟩ hi
    rw [decodeSecret_26 hx, decodeSecret_26 hy, hpre, hxy]
  · have hdvd : 8 ∣ 5 * n.toNat := by rcases hn with rfl | rfl <;> decide
    obtain ⟨vs, hva, hvb⟩ := base32Values_of_same_key hdvd ha hb
    have hmap := ((base32Values_eq_some_iff _ _).mp hva).trans ((base32Values_eq_some_iff _ _).mp hvb).symm
    simpa [List.getElem?_take, hi] using congrArg (·[i.val]?) hmap

/-- Settles O22: the length is the first thing DecodeSecret looks at. -/
theorem otherSecretLengthsAreRejected : Obligations.OtherSecretLengthsAreRejected := by
  intro secret n h16 h26 h32
  have hn : n.toNat ∉ Config.secretLengths := by simp [Config.secretLengths, h16, h26, h32]
  exact if_neg hn

end Sys2Proof.Machine
end

section
/-! PROOFS. The obligation of 41_counter.md on the value DeriveCounter answers. Its existence and its number are
`deriveCounter_nonneg` of the laws; here are the bound and the last time. -/

namespace Sys2Proof.Machine

/-- The floor of a time by 30 is at most the counter of the last time, for a time is below 2^63. -/
theorem toInt_ediv_30_le (time : BitVec 64) : time.toInt / 30 ≤ 307445734561825860 := by
  have hlt : time.toInt < 2 ^ 63 := BitVec.toInt_lt
  omega

/-- The bound is reached: the counter of the last time, 2^63 - 1. -/
theorem deriveCounter_last : deriveCounter 0x7FFFFFFFFFFFFFFF = .ok 0x0444444444444444 := rfl

/-- Settles O29: the floor by `deriveCounter_nonneg`, which on a time not negative is the truncation too, and its
bound by `toInt_ediv_30_le`. -/
theorem derivedCounterIsTheFloorAndBounded : Obligations.DerivedCounterIsTheFloorAndBounded := by
  refine ⟨fun time h => ?_, deriveCounter_last, rfl⟩
  obtain ⟨c, hc, hfloor⟩ := deriveCounter_nonneg h
  have htrunc : (c.toNat : Int) = time.toInt.tdiv 30 := hfloor.trans (Int.tdiv_eq_ediv_of_nonneg h).symm
  have hbound : (c.toNat : Int) ≤ 307445734561825860 := hfloor ▸ toInt_ediv_30_le time
  exact ⟨c, hc, hfloor, htrunc, by exact_mod_cast hbound⟩

end Sys2Proof.Machine
end

section
/-! PROOFS. The obligations of 42_hmac_sha1.md on SHA-1. The padding and the blocks are those of the laws. The
schedule turns on a property of the words held newest first, which each new word keeps; the eighty rounds are one
fold over the places of the schedule. -/

namespace Sys2Proof.Machine

/-! ### The message schedule (42_hmac_sha1.md R124) -/

/-- The recurrence on the words held newest first: each word but the oldest sixteen is the rotated exclusive or of
the words 3, 8, 14 and 16 places older. -/
def MeetsRecurrence (ws : List Word) : Prop :=
  ∀ k : Nat, k + 16 < ws.length → ws.getD k 0 =
    (ws.getD (k + 3) 0 ^^^ ws.getD (k + 8) 0 ^^^ ws.getD (k + 14) 0 ^^^ ws.getD (k + 16) 0).rotateLeft 1

theorem scheduleNext_meetsRecurrence {ws : List Word} (h : MeetsRecurrence ws) :
    MeetsRecurrence (scheduleNext ws) := by
  intro k hk
  cases k with
  | zero => rfl
  | succ k => exact h k (Nat.lt_of_succ_lt_succ (by simpa [scheduleNext, Nat.add_right_comm] using hk))

theorem scheduleExtend_meetsRecurrence (n : Nat) {ws : List Word} (h : MeetsRecurrence ws) :
    MeetsRecurrence (scheduleExtend n ws) := by
  induction n generalizing ws with
  | zero => exact h
  | succ n ih => exact ih (scheduleNext_meetsRecurrence h)

/-- The sixteen words of a block have no word the recurrence speaks of. -/
theorem meetsRecurrence_of_length_le {ws : List Word} (h : ws.length ≤ 16) : MeetsRecurrence ws :=
  fun k hk => absurd hk (by omega)

/-- The schedule begins with the block's own words. -/
theorem messageSchedule_prefix (m : List Word) : ∃ l, messageSchedule m = m ++ l := by
  obtain ⟨l, h⟩ := scheduleExtend_suffix 64 m.reverse
  exact ⟨l.reverse, by simp [messageSchedule, h]⟩

/-- Word t of the schedule, counted from the newest. -/
theorem messageSchedule_getD {m : List Word} (hm : m.length = 16) {t : Nat} (ht : t ≤ 79) :
    (messageSchedule m).getD t 0 = (scheduleExtend 64 m.reverse).getD (79 - t) 0 := by
  have hlen : (scheduleExtend 64 m.reverse).length = 80 := by simp [scheduleExtend_length, hm]
  rw [messageSchedule, List.getD_reverse t (by omega), hlen]

theorem messageSchedule_recurrence {m : List Word} (hm : m.length = 16) {t : Nat} (h16 : 16 ≤ t) (h79 : t ≤ 79) :
    (messageSchedule m).getD t 0 =
      ((messageSchedule m).getD (t - 3) 0 ^^^ (messageSchedule m).getD (t - 8) 0 ^^^
        (messageSchedule m).getD (t - 14) 0 ^^^ (messageSchedule m).getD (t - 16) 0).rotateLeft 1 := by
  have older {i : Nat} (hi : i ≤ 16) :
      (messageSchedule m).getD (t - i) 0 = (scheduleExtend 64 m.reverse).getD (79 - t + i) 0 := by
    rw [messageSchedule_getD hm (by omega)]
    congr 1
    omega
  have hrec := scheduleExtend_meetsRecurrence 64 (meetsRecurrence_of_length_le (ws := m.reverse) (by simp [hm]))
  rw [messageSchedule_getD hm h79, older (by decide), older (by decide), older (by decide), older (by decide)]
  exact hrec (79 - t) (by simp [scheduleExtend_length, hm]; omega)

/-! ### The rounds (42_hmac_sha1.md R126) -/

/-- The rounds from round t on, as one fold over the places of the schedule words. -/
theorem sha1Rounds_eq_foldl (t : Nat) (ws : List Word) (h : HashWords) :
    sha1Rounds t ws h =
      (List.range ws.length).foldl (fun x i => sha1Round (t + i) (ws.getD i 0) x) h := by
  induction ws generalizing t h with
  | nil => rfl
  | cons w ws ih =>
    rw [sha1Rounds, ih, List.length_cons, List.range_succ_eq_map, List.foldl_cons, List.foldl_map]
    simp [Nat.add_assoc, Nat.add_comm 1]

/-- Compress runs round t with word t of the block's schedule, for t from 0 to 79. -/
theorem sha1Compress_eq_foldl (h : HashWords) (block : List Byte) :
    sha1Compress h block = h.add ((List.range 80).foldl
      (fun x t => sha1Round t ((messageSchedule (blockWords block)).getD t 0) x) h) := by
  have hlen : (messageSchedule (blockWords block)).length = 80 := by simp
  rw [sha1Compress, sha1Rounds_eq_foldl, hlen]
  simp only [Nat.zero_add]

/-! ### The obligations -/

/-- Settles O31, by `sha1ZeroBytes_least`; the length field fills the last block. -/
theorem paddingMakesWholeBlocks : Obligations.PaddingMakesWholeBlocks := by
  intro m
  have hz : (m.length + 1 + sha1ZeroBytes m.length) % 64 = 56 := (sha1ZeroBytes_least m.length 0).1
  refine ⟨sha1ZeroBytes m.length, rfl, hz, fun z => (sha1ZeroBytes_least m.length z).2, ?_⟩
  rw [sha1Pad_length]
  omega

/-- Settles O32: the first sixteen words by `messageSchedule_prefix`, the others by `messageSchedule_recurrence`. -/
theorem messageScheduleMeetsTheRecurrence : Obligations.MessageScheduleMeetsTheRecurrence := by
  intro m hm
  refine ⟨by simp [hm], fun t ht => ?_, fun t => messageSchedule_recurrence hm⟩
  obtain ⟨l, hl⟩ := messageSchedule_prefix m
  rw [hl, List.getD_append _ _ _ _ (by omega)]

/-- Settles O33: `sha1Compress_eq_foldl`, with the round and the addition written out. -/
theorem compressRunsEightyRounds : Obligations.CompressRunsEightyRounds :=
  fun h block => ⟨_, rfl, sha1Compress_eq_foldl h block⟩

/-- Settles O34: the blocks by their places, by `sha1Blocks_eq_map`. -/
theorem hashCompressesTheBlocksInOrder : Obligations.HashCompressesTheBlocksInOrder := by
  intro m
  rw [sha1Hash, sha1Blocks_eq_map, List.foldl_map, sha1Init]

end Sys2Proof.Machine
end

section
/-! PROOFS. The obligations of 43_generate.md on Truncate and Format. The bytes Truncate reads and the digits Format
writes are given by the laws one by one; here they are read as one number. -/

namespace Sys2Proof.Machine

/-! ### Truncate (43_generate.md R141) -/

/-- The four bytes of a buffer from place o on. -/
theorem take_four_drop {n : Nat} (v : Vector Byte n) {o : Nat} (h : o + 3 < n) :
    (v.toList.drop o).take 4 = [v[o], v[o + 1], v[o + 2], v[o + 3]] := by
  apply List.ext_getElem
  · simp only [List.length_take, List.length_drop, Vector.length_toList, List.length_cons, List.length_nil]
    omega
  · intro i h1 h2
    match i, h2 with
    | 0, _ | 1, _ | 2, _ | 3, _ => simp

/-- The number of four bytes without its top bit: the modulus takes the top bit of the first byte alone. -/
theorem intBe_four_mod (a b c d : Byte) : intBe [a, b, c, d] % 2 ^ 31 =
    a.toNat % 128 * 2 ^ 24 + b.toNat * 2 ^ 16 + c.toNat * 2 ^ 8 + d.toNat := by
  simp only [intBe_cons, intBe_nil, List.length_cons, List.length_nil]
  omega

/-- Truncate at an offset is the number of the four bytes there, without its top bit. -/
theorem truncateAt_eq_intBe (dg : Vector Byte 20) (o : Nat) (h : o < 16) :
    (truncateAt dg o h).toNat = intBe ((dg.toList.drop o).take 4) % 2 ^ 31 := by
  rw [truncateAt_toNat, take_four_drop dg (by omega), intBe_four_mod]

/-! ### Format (43_generate.md R143) -/

/-- The six characters, read from the left as a decimal number, give the number formatted: the fold is the sum of
`formatCode_digits` by Horner's rule. -/
theorem foldl_formatCode {x : Nat} (h : x < 1000000) :
    (formatCode x).toList.foldl (fun acc d => acc * 10 + (d.toNat - 0x30)) 0 = x := by
  have hlist : (formatCode x).toList = [(formatCode x)[0], (formatCode x)[1], (formatCode x)[2],
      (formatCode x)[3], (formatCode x)[4], (formatCode x)[5]] := rfl
  refine Eq.trans ?_ (formatCode_digits h)
  simp only [hlist, List.foldl_cons, List.foldl_nil]
  ring

/-! ### The obligations -/

/-- Settles O37, by `truncateAt_eq_intBe` at the offset of `truncOffset_eq`. -/
theorem truncateReadsFourBytesAtTheOffset : Obligations.TruncateReadsFourBytesAtTheOffset := by
  intro dg
  rw [truncate, truncateAt_eq_intBe, truncOffset_eq]

/-- Settles O39: the digits by `formatCode_getElem_toNat`, the number they make by `foldl_formatCode`. -/
theorem formatWritesSixDecimalDigits : Obligations.FormatWritesSixDecimalDigits :=
  ⟨fun x h => ⟨fun k => formatCode_getElem_toNat x k.val k.isLt, (foldl_formatCode h).symm⟩, rfl, rfl⟩

end Sys2Proof.Machine
end

section
/-! PROOFS. The obligations of 44_control.md on ZEROIZE and ILLEGAL. Their effects are those of the laws; here are
the flags of STATUS as one field, and the words that are illegal by either field. -/

namespace Sys2Proof

/-- A word with RSV not 0 or a reserved OP is illegal (30_encoding.md R73). -/
theorem decodeWord_of_illegal_fields {w : Word} (h : cmdRsv w ≠ 0 ∨ 6 ≤ (cmdOp w).toNat) :
    decodeWord w = .illegal w :=
  h.elim (fun hr => if_pos hr) decodeWord_of_reserved_op

end Sys2Proof

namespace Sys2Proof.Machine

/-- STATUS[3:1] is the number of the three valid bits, CODE_VALID first (10_state.md R26). -/
theorem statusWord_valid_bits (s : State) : (statusWord s).extractLsb' 1 3 =
    BitVec.ofNat 3 (s.codeValid.toNat * 4 + s.ctrValid.toNat * 2 + s.keyValid.toNat) := by
  apply extractLsb'_eq_of_toNat
  have hv := s.codeValid.toNat_lt
  have hc := s.ctrValid.toNat_lt
  have hk := s.keyValid.toNat_lt
  rw [statusWord_toNat, BitVec.toNat_ofNat]
  omega

/-- Writing an illegal word to CMD sets ERR to IllegalCommand and changes nothing else (44_control.md R172). -/
theorem step_illegal {s : State} {w : Word} {rest : List HostEvent} (hw : cmdRsv w ≠ 0 ∨ 6 ≤ (cmdOp w).toNat)
    (h : s.pending = .write 0x04 4 w :: rest) :
    step s = .next (raise .illegalCommand { s with pending := rest }) := by
  rw [step_command h, decodeWord_of_illegal_fields hw, exec_illegal]

/-- Settles O47: the effect by `exec_zeroize`, the SECRET words by those of the reset state, whose SECRET ZEROIZE
leaves, the valid bits by `statusWord_valid_bits`. -/
theorem zeroizeErasesSecretAndKey : Obligations.ZeroizeErasesSecretAndKey := by
  refine ⟨exec_zeroize, exec_zeroize State.reset, fun s t h => ?_⟩
  obtain rfl : succeed (zeroizeKey (clearSecret (clearCodeOutputs s))) = t :=
    Host.Outcome.next.inj ((exec_zeroize s).symm.trans h)
  refine ⟨rfl, fun k => readReg_reset (.secret k), fun hc => ?_⟩
  rw [readReg, statusWord_valid_bits]
  simp [hc]

/-- Settles O49: the effect by `exec_illegal`, the write to CMD by `step_illegal`, which is also the first step of
the run. -/
theorem illegalWordsSetErrFiveOnly : Obligations.IllegalWordsSetErrFiveOnly := by
  have reserved : cmdRsv 0x00000106 ≠ 0 ∨ 6 ≤ (cmdOp 0x00000106).toNat := .inl (by decide)
  exact ⟨exec_illegal, fun _ _ _ => step_illegal, rfl, _,
    (run_succ (step_illegal reserved rfl) 1).trans (run_succ (step_read (r := .status) rfl rfl) 0), rfl⟩

end Sys2Proof.Machine
end

section
/-! PROOFS. The obligations of 60_exceptions.md on ERR and the order of the checks. They turn on what each command
leaves in ERR, read off its outcomes, and on which error each stage can report. -/

namespace Sys2Proof.Machine

/-! ### The errors of the stages -/

/-- A byte of SECRET[0..n] outside the alphabet leaves the secret without values (40_decode.md R92). -/
theorem base32Values_take_eq_none_iff (secret : Vector Byte 32) (n : Nat) :
    base32Values (secret.toList.take n) = none ↔
      ∃ j : Fin 32, j.val < n ∧ base32Val (normalise secret[j]) = none := by
  rw [base32Values_eq_none_iff]
  constructor
  · rintro ⟨c, hc, hnone⟩
    obtain ⟨j, hj, rfl⟩ := List.mem_take_iff_getElem.mp hc
    rw [Vector.length_toList, lt_min_iff] at hj
    exact ⟨⟨j, hj.2⟩, hj.1, hnone⟩
  · rintro ⟨j, hj, hnone⟩
    refine ⟨secret[j], List.mem_take_iff_getElem.mpr ⟨j, ?_, rfl⟩, hnone⟩
    rw [Vector.length_toList]
    exact lt_min hj j.isLt

/-- DecodeSecret checks the length before it reads a character (40_decode.md R96). -/
theorem decodeSecret_bad_length {secret : Vector Byte 32} {n : Word} (hn : n.toNat ∉ [16, 26, 32]) :
    decodeSecret secret n = .error .invalidSecretLength :=
  if_neg hn

/-- With a length that is accepted, a bad character is what DecodeSecret reports (40_decode.md R96). -/
theorem decodeSecret_bad_character {secret : Vector Byte 32} {n : Word} (hn : n.toNat ∈ [16, 26, 32])
    (h : ∃ j : Fin 32, j.val < n.toNat ∧ base32Val (normalise secret[j]) = none) :
    decodeSecret secret n = .error .base32DecodeError := by
  have hv := (base32Values_take_eq_none_iff secret n.toNat).mpr h
  rcases decodeSecret_cases secret n with ⟨hn', _⟩ | ⟨_, _, e⟩ | ⟨_, vs, hvs, _⟩
  · exact absurd hn hn'
  · exact e
  · rw [hv] at hvs; cases hvs

/-- A length that is accepted and characters of the alphabet make a key (40_decode.md R96). -/
theorem exists_decodeSecret_eq_ok {secret : Vector Byte 32} {n : Word} (hn : n.toNat ∈ [16, 26, 32])
    (h : ∀ j : Fin 32, j.val < n.toNat → base32Val (normalise secret[j]) ≠ none) :
    ∃ k, decodeSecret secret n = .ok k := by
  rcases decodeSecret_cases secret n with ⟨hn', _⟩ | ⟨_, hv, _⟩ | ⟨_, _, _, e⟩
  · exact absurd hn hn'
  · obtain ⟨j, hj, hnone⟩ := (base32Values_take_eq_none_iff secret n.toNat).mp hv
    exact absurd hnone (h j hj)
  · exact ⟨_, e⟩

/-- DecodeSecret does not report SequenceError (60_exceptions.md R181). -/
theorem decodeSecret_ne_sequenceError (secret : Vector Byte 32) (n : Word) :
    decodeSecret secret n ≠ .error .sequenceError := by
  intro h
  rcases decodeSecret_cases secret n with ⟨_, e⟩ | ⟨_, _, e⟩ | ⟨_, _, _, e⟩ <;> rw [h] at e <;> cases e

/-! ### What each command leaves in ERR (60_exceptions.md R182) -/

/-- No command depends on the ERR it starts from: its stages do not read it and its end overwrites it. -/
theorem exec_with_err (i : Instr) (s : State) (e : ErrorKind) : exec i { s with err := e } = exec i s := by
  cases i <;> rfl

theorem exec_decode_err {s t : State} (h : exec .decode s = .next t) :
    t.err = match decodeSecret s.secret s.secretLen with | .ok _ => .none | .error e => e := by
  cases hd : decodeSecret s.secret s.secretLen with
  | error e => rw [exec_decode_error hd] at h; cases h; rfl
  | ok k => rw [exec_decode_ok hd] at h; cases h; rfl

theorem exec_counter_err {s t : State} (h : exec .counter s = .next t) :
    t.err = if s.time.toInt < 0 then .clockError else .none := by
  split_ifs with ht
  · rw [exec_counter_error (deriveCounter_neg ht)] at h; cases h; rfl
  · obtain ⟨c, hc, _⟩ := deriveCounter_nonneg (not_lt.mp ht)
    rw [exec_counter_ok hc] at h; cases h; rfl

theorem exec_generate_err {s t : State} (h : exec .generate s = .next t) :
    t.err = if s.keyValid = true ∧ s.ctrValid = true then .none else .sequenceError := by
  split_ifs with hv
  · rw [exec_generate_ok hv.1 hv.2] at h; cases h; rfl
  · rw [not_and_or, Bool.not_eq_true, Bool.not_eq_true] at hv
    rw [exec_generate_error hv] at h; cases h; rfl

theorem exec_totp_err {s t : State} (h : exec .totp s = .next t) :
    t.err = match decodeSecret s.secret s.secretLen with
      | .ok _ => if s.time.toInt < 0 then .clockError else .none
      | .error e => e := by
  cases hd : decodeSecret s.secret s.secretLen with
  | error e => rw [exec_totp_secret_error hd] at h; cases h; rfl
  | ok k =>
    dsimp only
    split_ifs with ht
    · rw [exec_totp_clock_error hd (deriveCounter_neg ht)] at h; cases h; rfl
    · obtain ⟨c, hc, _⟩ := deriveCounter_nonneg (not_lt.mp ht)
      rw [exec_totp_ok hd hc] at h; cases h; rfl

/-- DECODE and TOTP end alike at a secret that does not decode: COUNTER is not reached (44_control.md R162). -/
theorem exec_secret_error {i : Instr} {s t : State} {e : ErrorKind} (hi : i = .decode ∨ i = .totp)
    (hd : decodeSecret s.secret s.secretLen = .error e) (h : exec i s = .next t) :
    t.err = e ∧ t.counter = s.counter := by
  rcases hi with rfl | rfl
  · rw [exec_decode_error hd] at h; cases h; exact ⟨rfl, rfl⟩
  · rw [exec_totp_secret_error hd] at h; cases h; exact ⟨rfl, rfl⟩

/-- SequenceError is GENERATE's alone (60_exceptions.md R181). -/
theorem eq_generate_of_sequenceError {i : Instr} {s t : State} (h : exec i s = .next t)
    (he : t.err = .sequenceError) : i = .generate := by
  have hd := decodeSecret_ne_sequenceError s.secret s.secretLen
  cases i with
  | generate => rfl
  | nop | zeroize | illegal w => cases h; cases he
  | counter =>
    rw [exec_counter_err h] at he
    split_ifs at he
  | decode =>
    rw [exec_decode_err h] at he
    split at he
    · cases he
    · next e hde => exact absurd (he ▸ hde) hd
  | totp =>
    rw [exec_totp_err h] at he
    split at he
    · split_ifs at he
    · next e hde => exact absurd (he ▸ hde) hd

/-! ### Steps that run no command -/

/-- A step that serves neither a write to CMD nor a reset leaves ERR as it was (60_exceptions.md R182). -/
theorem step_err_of_no_command {s t : State} (hc : ∀ w rest, s.pending ≠ .write 0x04 4 w :: rest)
    (hr : ∀ rest, s.pending ≠ .reset :: rest) (h : step s = .next t) : t.err = s.err := by
  rcases step_cases h with ⟨_, e⟩ | ⟨rest, hp, _⟩ | ⟨_, _, _, _, _, e⟩ | ⟨_, r, v, rest, _, _, _, e⟩ |
    ⟨w, rest, hp, _⟩ | ⟨_, _, _, _, _, e⟩
  · cases e; rfl
  · exact absurd hp (hr rest)
  · cases e; rfl
  · obtain ⟨_, _, _, herr, _⟩ := writeReg_frame r v { s with pending := rest }
    cases e
    exact herr
  · exact absurd hp (hc w rest)
  · cases e

/-! ### The obligations -/

/-- Settles O50: the old ERR does not count by `exec_with_err`, what is left is that of the `exec_…_err` lemmas, and
reads and writes elsewhere keep it by `step_err_of_no_command`. -/
theorem errDescribesTheLastCommandOnly : Obligations.ErrDescribesTheLastCommandOnly := by
  refine ⟨exec_with_err, fun i s t h => ?_, fun s t off width rest hp => ?_⟩
  · cases i with
    | nop | zeroize | illegal w => cases h; rfl
    | decode => exact exec_decode_err h
    | counter => exact exec_counter_err h
    | generate => exact exec_generate_err h
    | totp => exact exec_totp_err h
  · apply step_err_of_no_command
    · rcases hp with hp | ⟨v, ho, hp⟩
      · simp [hp]
      · rw [hp]
        rintro w rest' ⟨⟩
        exact ho rfl
    · rcases hp with hp | ⟨v, _, hp⟩ <;> simp [hp]

/-- Settles O51: a secret that does not decode ends DECODE and TOTP by `exec_secret_error`, with the length checked
before the characters; only then does TOTP reach the clock. -/
theorem firstFailingCheckIsReported : Obligations.FirstFailingCheckIsReported := by
  refine ⟨fun w s t h => ?_, fun i s t hi h => ⟨fun hn => ?_, fun hn hbad => ?_⟩, fun s t h hn hgood ht => ?_,
    fun i s t h => ⟨eq_generate_of_sequenceError h, ?_⟩, fun s t hn _ h => ?_⟩
  · rw [exec_illegal] at h; cases h; rfl
  · exact exec_secret_error hi (decodeSecret_bad_length hn) h
  · exact exec_secret_error hi (decodeSecret_bad_character hn hbad) h
  · obtain ⟨k, hk⟩ := exists_decodeSecret_eq_ok hn hgood
    rw [exec_totp_err h, hk]
    exact if_pos ht
  · rintro rfl
    rw [exec_generate_err h]
    exact ite_eq_or_eq ..
  · exact exec_secret_error (.inr rfl) (decodeSecret_bad_length (by rw [hn]; decide)) h

end Sys2Proof.Machine
end

section
/-! PROOFS. The round trip of 30_encoding.md. What it turns on is that an illegal command carries an illegal word,
which the decoder gives back unchanged. -/

namespace Sys2Proof

/-- Settles O1: the six commands by their literal words, an illegal one by `illegal_wellFormed_iff`. -/
theorem decodeOfEncodeIsTheInstruction : Obligations.DecodeOfEncodeIsTheInstruction := by
  intro i h
  cases i with
  | nop | decode | counter | generate | totp | zeroize => rfl
  | illegal w => exact decodeWord_illegal ((illegal_wellFormed_iff w).mp h)

end Sys2Proof
end

section
/-! PROOFS. The obligations on where a run stops. A step is refused at an access outside the interface alone and
otherwise takes one event off the host's list, so a program inside the interface runs to its end by induction. -/

namespace Sys2Proof.Machine

/-- A step that is refused was at an access outside the interface (20_memory.md R55). -/
theorem outside_of_step_refused {s : State} {r : Refusal} (h : step s = .refused r) :
    ∃ (off : BitVec 8) (width : Nat) (rest : List HostEvent), r = .outsideInterface off width ∧
      (width ≠ 4 ∨ off.toNat % 4 ≠ 0) ∧
      (s.pending = .read off width :: rest ∨ ∃ v : Word, s.pending = .write off width v :: rest) := by
  rcases step_cases h with ⟨_, e⟩ | ⟨_, _, e⟩ | ⟨_, _, _, _, _, e⟩ | ⟨_, _, _, _, _, _, _, e⟩ |
    ⟨w, rest, _, e⟩ | ⟨off, width, rest, ho, hp, e⟩
  case inr.inr.inr.inr.inl =>
    obtain ⟨t, ht⟩ := exec_next (decodeWord w) { s with pending := rest }
    cases e.trans ht
  case inr.inr.inr.inr.inr => exact ⟨off, width, rest, Host.Outcome.refused.inj e, ho, hp⟩
  all_goals cases e

/-- A step takes one event off the host's list (20_memory.md R60). -/
theorem step_pending {s t : State} (h : step s = .next t) : t.pending = s.pending.tail := by
  rcases step_cases h with ⟨hp, e⟩ | ⟨_, hp, e⟩ | ⟨_, _, _, _, hp, e⟩ | ⟨_, r, v, rest, _, _, hp, e⟩ |
    ⟨_, _, hp, e⟩ | ⟨_, _, _, _, _, e⟩
  · cases e; rw [hp, List.tail_nil]
  · cases e; rw [hp]; rfl
  · cases e; rw [hp]; rfl
  · obtain ⟨-, -, -, -, hpending, -⟩ := writeReg_frame r v { s with pending := rest }
    cases e
    rw [hp, hpending, List.tail_cons]
  · obtain ⟨-, hpending, -⟩ := exec_frame e.symm
    rw [hp, hpending, List.tail_cons]
  · cases e

/-- An access inside the interface is 32 bits wide and aligned (20_memory.md R55). -/
theorem insideInterface_iff (off : BitVec 8) (width : Nat) :
    insideInterface off width = true ↔ width = 4 ∧ off.toNat % 4 = 0 := by
  simp [insideInterface]

/-- The next event of a program inside the interface is inside it. -/
theorem wellFormed_of_programInside {s : State} {e : HostEvent} {rest : List HostEvent}
    (h : s.programInside = true) (hp : s.pending = e :: rest) : e.wellFormed = true :=
  List.all_eq_true.mp h e (hp ▸ List.mem_cons_self)

/-- Inside the interface a step answers a next state. -/
theorem exists_step_of_programInside {s : State} (h : s.programInside = true) : ∃ t, step s = .next t := by
  cases hs : step s with
  | next t => exact ⟨t, rfl⟩
  | fault f => nomatch f
  | refused r =>
    obtain ⟨off, width, rest, -, ho, hp⟩ := outside_of_step_refused hs
    have hin : insideInterface off width = true := by
      rcases hp with hp | ⟨v, hp⟩
      · exact wellFormed_of_programInside h hp
      · exact wellFormed_of_programInside h hp
    obtain ⟨hw, h4⟩ := (insideInterface_iff off width).mp hin
    exact absurd ho (by simp [hw, h4])

/-- A step leaves a program inside the interface inside it. -/
theorem step_programInside {s t : State} (h : s.programInside = true) (hs : step s = .next t) :
    t.programInside = true := by
  rw [State.programInside, List.all_eq_true] at h ⊢
  rw [step_pending hs]
  exact fun e he => h e (List.mem_of_mem_tail he)

/-- Settles O8, by induction on the number of steps. -/
theorem programsInsideTheInterfaceNeverStop : Obligations.ProgramsInsideTheInterfaceNeverStop := by
  intro s k
  induction k generalizing s with
  | zero => exact fun _ => ⟨s, run_zero s, rfl⟩
  | succ k ih =>
    intro h
    obtain ⟨u, hu⟩ := exists_step_of_programInside h
    obtain ⟨t, ht, hpending⟩ := ih u (step_programInside h hu)
    exact ⟨t, (run_succ hu k).trans ht, by rw [hpending, step_pending hu, List.drop_tail]⟩

/-- Settles O7: no fault exists to answer; a refusal is `outside_of_step_refused` one way and the two laws of
accesses outside the interface the other. -/
theorem onlyAccessesOutsideTheInterfaceStop : Obligations.OnlyAccessesOutsideTheInterfaceStop := by
  refine fun s => ⟨nofun, fun r => ⟨outside_of_step_refused, ?_⟩⟩
  rintro ⟨off, width, rest, rfl, ho, hp | ⟨v, hp⟩⟩
  · exact step_outside_read ho hp
  · exact step_outside_write ho hp

/-- Settles O4, by `step_reset`. -/
theorem resetEventSetsEveryField : Obligations.ResetEventSetsEveryField := fun _ _ h => step_reset h

end Sys2Proof.Machine
end

section
/-! PROOFS. The obligation on what the host can see of KEY (10_state.md R32). A step from a state with another KEY
has the outcome of the same law: no register reads KEY, and only GENERATE uses it. -/

namespace Sys2Proof.Machine

/-- A command other than GENERATE, from a state with another KEY, leaves a state that differs in KEY alone. -/
theorem exec_with_key {i : Instr} {s t : State} (key : Vector Byte 20) (hi : i ≠ .generate)
    (h : exec i s = .next t) :
    ∃ key' : Vector Byte 20, exec i { s with key := key } = .next { t with key := key' } := by
  rcases exec_cases h with ⟨rfl, e⟩ | ⟨w, rfl, e⟩ | ⟨rfl, e⟩ | ⟨_, rfl, hd, e⟩ | ⟨k, rfl, hd, e⟩ |
    ⟨_, rfl, hc, e⟩ | ⟨_, rfl, hc, e⟩ | ⟨rfl, _, e⟩ | ⟨rfl, _, _, e⟩ | ⟨_, rfl, hd, e⟩ |
    ⟨_, _, rfl, hd, hc, e⟩ | ⟨_, _, rfl, hd, hc, e⟩ <;> cases e
  · exact ⟨key, exec_nop _⟩
  · exact ⟨key, exec_illegal w _⟩
  · exact ⟨_, exec_zeroize _⟩
  · exact ⟨_, exec_decode_error (s := { s with key := key }) hd⟩
  · exact ⟨_, exec_decode_ok (s := { s with key := key }) hd⟩
  · exact ⟨key, exec_counter_error (s := { s with key := key }) hc⟩
  · exact ⟨key, exec_counter_ok (s := { s with key := key }) hc⟩
  · exact absurd rfl hi
  · exact absurd rfl hi
  · exact ⟨_, exec_totp_secret_error (s := { s with key := key }) hd⟩
  · exact ⟨_, exec_totp_clock_error (s := { s with key := key }) hd hc⟩
  · exact ⟨_, exec_totp_ok (s := { s with key := key }) hd hc⟩

/-- Settles O54: reads by `readReg_key`, writes by `writeReg_key`, commands by `exec_with_key`. -/
theorem keyIsHiddenFromTheHost : Obligations.KeyIsHiddenFromTheHost := by
  intro s t key hgen h
  rcases step_cases h with ⟨hp, e⟩ | ⟨rest, hp, e⟩ | ⟨_, r, rest, hr, hp, e⟩ | ⟨_, r, v, rest, hr, hc, hp, e⟩ |
    ⟨w, rest, hp, e⟩ | ⟨_, _, _, _, _, e⟩
  · cases e
    exact ⟨key, step_idle (s := { s with key := key }) hp⟩
  · cases e
    exact ⟨_, step_reset (s := { s with key := key }) hp⟩
  · cases e
    have hs := step_read (s := { s with key := key }) hr hp
    rw [readReg_key r s key] at hs
    exact ⟨key, hs⟩
  · cases e
    have hs := step_write (s := { s with key := key }) hr hc hp
    exact ⟨key, hs.trans (congrArg _ (writeReg_key r v { s with pending := rest } key))⟩
  · obtain ⟨key', hkey⟩ := exec_with_key key (hgen w rest hp) e.symm
    exact ⟨key', (step_command (s := { s with key := key }) hp).trans hkey⟩
  · cases e

end Sys2Proof.Machine
end

section
/-! PROOFS. The obligations on the properties (I1) to (I8) of 10_state.md R23: they hold after reset, and each
event, so each step, keeps them. -/

namespace Sys2Proof.Machine

theorem State.reset_inv : State.reset.Inv where
  keyLen_valid := by decide
  keyLen_legal := by decide
  key_tail := by decide
  cleared := by decide
  derived := by decide
  digest_counter := nofun
  digest_key := nofun
  counter_invalid := by decide
  trunc_lt := by decide
  codeInt_lt := by decide
  err_le := by decide

/-- The properties do not speak of the fields the host loads before a command. -/
theorem State.Inv.operands {s : State} (h : s.Inv) (secret : Vector Byte 32) (len : Word) (time : BitVec 64) :
    State.Inv { s with secret := secret, secretLen := len, time := time } :=
  { h with }

/-- A held key has a legal length (I1). -/
theorem State.Inv.heldKey_length {s : State} (h : s.Inv) (hv : s.keyValid = true) :
    (heldKey s).length ∈ [10, 16, 20] := by
  have hlegal := h.keyLen_legal hv
  have hlen : (heldKey s).length = s.keyLen.toNat := by
    simp only [List.mem_cons, List.not_mem_nil, or_false] at hlegal
    simp only [heldKey, List.length_take, Vector.length_toList]
    omega
  exact hlen ▸ hlegal

/-- A host write keeps the properties: a write to a half of COUNTER clears the code outputs that go with the old
counter (10_state.md R33). -/
theorem State.Inv.writeReg {s : State} (h : s.Inv) (r : Reg) (v : Word) : (writeReg r v s).Inv := by
  cases r with
  | secretLen | secret | timeLo | timeHi => exact h.operands _ _ _
  | counterLo | counterHi => exact h.clearCodeOutputs.storeCounter rfl _
  | _ => exact h

/-- A decoded key has a legal length (40_decode.md R95). -/
theorem decodeSecret_ok_legal {secret : Vector Byte 32} {n : Word} {k : List Byte}
    (h : decodeSecret secret n = .ok k) : k.length ∈ [10, 16, 20] := by
  obtain ⟨-, -, hk⟩ := decodeSecret_ok_length h
  exact hk

/-- Every command keeps the properties: each outcome is made of operations that do. -/
theorem State.Inv.exec {s t : State} {i : Instr} (h : s.Inv) (he : exec i s = .next t) : t.Inv := by
  have hc := h.clearCodeOutputs
  rcases exec_cases he with ⟨_, e⟩ | ⟨_, _, e⟩ | ⟨_, e⟩ | ⟨_, _, _, e⟩ | ⟨_, _, hd, e⟩ | ⟨_, _, _, e⟩ |
    ⟨c, _, _, e⟩ | ⟨_, _, e⟩ | ⟨_, hk, _, e⟩ | ⟨_, _, _, e⟩ | ⟨_, _, _, _, _, e⟩ | ⟨k, c, _, hd, _, e⟩ <;> cases e
  · exact h.succeed
  · exact h.raise _
  · exact hc.clearSecret.zeroizeKey.succeed
  · exact hc.zeroizeKey.raise _
  · exact (hc.storeKey rfl (decodeSecret_ok_legal hd)).succeed
  · exact (hc.dropCounter rfl).raise _
  · exact (hc.storeCounter rfl c).succeed
  · exact hc.raise _
  · exact (hc.storeCode (h.heldKey_length hk) fun _ => rfl).succeed
  · exact hc.zeroizeKey.raise _
  · exact (hc.dropCounter rfl).zeroizeKey.raise _
  · exact ((hc.storeCounter rfl c).zeroizeKey.storeCode (decodeSecret_ok_legal hd) nofun).succeed

/-- Settles O55: the host's events are not among what the properties speak of. -/
theorem invariantHoldsAfterReset : Obligations.InvariantHoldsAfterReset := fun program =>
  State.reset_inv.host program []

/-- Settles O56, by the lemma of each event: `State.Inv.writeReg` and `State.Inv.exec`. -/
theorem everyStepKeepsTheInvariant : Obligations.EveryStepKeepsTheInvariant := by
  intro s t h hs
  rcases step_cases hs with ⟨_, e⟩ | ⟨_, _, e⟩ | ⟨_, _, _, _, _, e⟩ | ⟨_, r, v, _, _, _, _, e⟩ |
    ⟨_, rest, _, e⟩ | ⟨_, _, _, _, _, e⟩
  · cases e; exact h
  · cases e; exact State.reset_inv.host _ _
  · cases e; exact h.host _ _
  · cases e; exact (h.host _ _).writeReg r v
  · exact (h.host rest s.observed).exec e.symm
  · cases e

/-- Settles O57, by induction on the run. -/
theorem everyReachableStateMeetsTheInvariant : Obligations.EveryReachableStateMeetsTheInvariant := by
  intro s h
  induction h with
  | reset program => exact invariantHoldsAfterReset program
  | step _ hs ih => exact everyStepKeepsTheInvariant _ _ ih hs

end Sys2Proof.Machine
end

section
/-! PROOFS. The obligations of 10_state.md and 20_memory.md on TIME, the result registers, the frame of a write and
the place of the window. -/

namespace Sys2Proof.Machine

/-- DIGESTk is the big-endian number of its four bytes (10_state.md R37). -/
theorem digestWord_toNat (dg : Vector Byte 20) (k : Fin 5) :
    (digestWord dg k).toNat = intBe ((dg.toList.drop (4 * k.val)).take 4) := by
  rw [digestWord, packWord_toNat, take_four_drop dg (by omega)]
  simp only [intBe_cons, intBe_nil, List.length_cons, List.length_nil]
  omega

/-- The offset a bus address of the window names (20_memory.md R50). -/
theorem windowOffset_busAddress (off : BitVec 8) : windowOffset (busAddress off) = some off := by
  have hlt := off.isLt
  have hin : Config.base ≤ busAddress off ∧ busAddress off < Config.base + Config.window :=
    ⟨Nat.le_add_right _ _, Nat.add_lt_add_left hlt _⟩
  rw [windowOffset, if_pos hin, busAddress, Nat.add_sub_cancel_left, BitVec.ofNat_toNat, BitVec.setWidth_eq]

/-- An address outside BASE to BASE + 0xFF names no offset (20_memory.md R51). -/
theorem windowOffset_outside {addr : Nat} (h : addr < Config.base ∨ Config.base + 0xFF < addr) :
    windowOffset addr = none := by
  apply if_neg
  rw [Config.window]
  omega

/-- A bus access at an address outside the window adds no event (20_memory.md R51). -/
theorem issueBus_outside {a : BusAccess} (s : State)
    (h : a.addr < Config.base ∨ Config.base + 0xFF < a.addr) : issueBus a s = s := by
  simp [issueBus, busEvent, windowOffset_outside h]

/-! ### The obligations -/

/-- Settles O12: the half not written keeps its value because `joinHalves` keeps its two halves apart. -/
theorem timeHalvesAreWrittenApart : Obligations.TimeHalvesAreWrittenApart := fun s v _ =>
  ⟨fun h => ⟨joinHalves (hiHalf s.time) v, step_write (r := .timeLo) rfl (by decide) h,
      loHalf_joinHalves _ _, hiHalf_joinHalves _ _⟩,
    fun h => ⟨joinHalves v (loHalf s.time), step_write (r := .timeHi) rfl (by decide) h,
      hiHalf_joinHalves _ _, loHalf_joinHalves _ _⟩,
    step_read (r := .timeLo) rfl, step_read (r := .timeHi) rfl⟩

/-- Settles O17: the fields are zero-extended, DIGESTk is `digestWord_toNat`, and none is a stored register. -/
theorem resultRegistersAreReadOnly : Obligations.ResultRegistersAreReadOnly := by
  refine fun s rest => ⟨fun h => ⟨_, step_read (r := .keyLen) rfl h, BitVec.toNat_setWidth_of_le (by decide)⟩,
    fun h => ⟨_, step_read (r := .codeInt) rfl h, BitVec.toNat_setWidth_of_le (by decide)⟩,
    fun k h => ⟨_, step_read (regAt_regOffset (.digest k)) h, digestWord_toNat _ _⟩, fun v off h ho => ?_⟩
  rcases ho with rfl | rfl | ⟨k, rfl⟩
  · exact step_write_ignored (r := .keyLen) rfl (by decide) (by simp [Stored]) h
  · exact step_write_ignored (r := .codeInt) rfl (by decide) (by simp [Stored]) h
  · exact step_write_ignored (regAt_regOffset (.digest k)) (by simp) (by simp [Stored]) h

/-- Settles O18: the state is that of `step_write`, its frame is `writeReg_frame`, and what it reads is given by
the laws on reads after writes. -/
theorem hostWriteFrame : Obligations.HostWriteFrame := by
  intro s r v rest hc h
  obtain ⟨hkey, hkeyLen, hkeyValid, herr, hpending, hobserved⟩ := writeReg_frame r v { s with pending := rest }
  refine ⟨_, step_write (regAt_regOffset r) hc h, hpending, hobserved, herr, hkey, hkeyLen, hkeyValid,
    readReg_writeReg_self r v _, fun hl hh r' hr' => ?_, ?_⟩
  · exact (readReg_writeReg_ne r r' v _ hl hh hr').trans (readReg_host r' s rest s.observed)
  · rintro (rfl | rfl)
    · exact ⟨rfl, rfl, rfl⟩
    · exact ⟨rfl, rfl, rfl⟩

/-- Settles O19, by `windowOffset_busAddress` inside the window and `windowOffset_outside` outside it. -/
theorem windowStandsAtBase : Obligations.WindowStandsAtBase := by
  refine ⟨Nat.mul_mod_right _ _, windowOffset_busAddress, fun _ => windowOffset_outside,
    fun _ s => issueBus_outside s, fun off width s => ⟨?_, fun v => ?_⟩⟩
  · simp [issueBus, busEvent, windowOffset_busAddress]
  · simp [issueBus, busEvent, windowOffset_busAddress]

end Sys2Proof.Machine
end

section
/-! PROOFS. The obligations of 40_decode.md on the key's number, on where decoding fails and on the DECODE command.
The bit string is the sum of the values by their places, and the bits left over after the shift fit the key's whole
bytes, so the key's number is the shifted bit string itself. -/

namespace Sys2Proof.Machine

/-! ### The bit string as a sum (40_decode.md R93, R95) -/

/-- The bit string of the values of n places, each value at its place. -/
theorem bitString_map_range (v : Nat → Nat) (n : Nat) :
    bitString ((List.range n).map v) = ∑ i ∈ Finset.range n, v i * 2 ^ (5 * (n - 1 - i)) := by
  induction n with
  | zero => rfl
  | succ n ih =>
    rw [List.range_succ, List.map_append, List.map_singleton, bitString_append_singleton, ih, Finset.sum_mul,
      Finset.sum_range_succ, Nat.add_sub_cancel, Nat.sub_self, Nat.mul_zero, pow_zero, Nat.mul_one]
    refine congrArg (· + v n) (Finset.sum_congr rfl fun i hi => ?_)
    have hplace : 5 * (n - i) = 5 * (n - 1 - i) + 5 := by
      have := Finset.mem_range.mp hi
      omega
    rw [hplace, pow_add]
    ring

/-- The values of the first n bytes of a secret, where each of them has one. -/
theorem base32Values_take_eq_some {secret : Vector Byte 32} {n : Nat} {v : Nat → Nat} (hn : n ≤ 32)
    (h : ∀ i : Fin 32, i.val < n → base32Val (normalise secret[i]) = some (v i.val)) :
    base32Values (secret.toList.take n) = some ((List.range n).map v) := by
  rw [base32Values_eq_some_iff]
  apply List.ext_getElem
  · simp [hn]
  · intro i h1 h2
    have hi : i < n := by simpa using h2
    simpa using h ⟨i, by omega⟩ hi

/-- The shifted bit string fits the whole bytes of the key, so the key's number is that string. -/
theorem intBe_beBytes_shiftRight {vs : List Nat} (hv : ∀ v ∈ vs, v < 32) {m : Nat} (hm : 8 * m ≤ 5 * vs.length) :
    intBe (beBytes m (bitString vs >>> (5 * vs.length - 8 * m))) =
      bitString vs / 2 ^ (5 * vs.length - 8 * m) := by
  have hlt : bitString vs < 256 ^ m * 2 ^ (5 * vs.length - 8 * m) :=
    calc bitString vs < 32 ^ vs.length := bitString_lt vs hv
      _ = 2 ^ (8 * m + (5 * vs.length - 8 * m)) := by rw [Nat.add_sub_cancel' hm]; exact (pow_mul 2 5 _).symm
      _ = 256 ^ m * 2 ^ (5 * vs.length - 8 * m) := by rw [pow_add, pow_mul]; rfl
  rw [intBe_beBytes, Nat.shiftRight_eq_div_pow,
    Nat.mod_eq_of_lt ((Nat.div_lt_iff_lt_mul (Nat.two_pow_pos _)).mpr hlt)]

/-- The key where every byte of the secret has a value (40_decode.md R95, R96). -/
theorem decodeSecret_of_values {secret : Vector Byte 32} {n : Word} {vs : List Nat} (hn : n.toNat ∈ [16, 26, 32])
    (hvs : base32Values (secret.toList.take n.toNat) = some vs) :
    decodeSecret secret n =
      .ok (beBytes (5 * n.toNat / 8) (bitString vs >>> (5 * n.toNat - 8 * (5 * n.toNat / 8)))) := by
  rcases decodeSecret_cases secret n with ⟨hn', -⟩ | ⟨-, hnone, -⟩ | ⟨-, ws, hws, e⟩
  · exact absurd hn hn'
  · cases hvs.symm.trans hnone
  · cases hvs.symm.trans hws
    exact e

/-- The errors DecodeSecret can report (40_decode.md R96). -/
theorem decodeSecret_error {secret : Vector Byte 32} {n : Word} {e : ErrorKind}
    (h : decodeSecret secret n = .error e) : e = .invalidSecretLength ∨ e = .base32DecodeError := by
  rcases decodeSecret_cases secret n with ⟨-, h'⟩ | ⟨-, -, h'⟩ | ⟨-, _, -, h'⟩ <;> cases h.symm.trans h'
  · exact .inl rfl
  · exact .inr rfl

/-! ### The alphabet (40_decode.md R91, R92) -/

/-- Only the lower-case letters are upper-cased. -/
theorem normalise_of_not_lower {c : Byte} (h : ¬ (0x61 ≤ c.toNat ∧ c.toNat ≤ 0x7A)) : normalise c = c :=
  if_neg h

/-- A lower-case letter goes to the upper-case letter 0x20 below it. -/
theorem normalise_toNat_of_lower {c : Byte} (h : 0x61 ≤ c.toNat ∧ c.toNat ≤ 0x7A) :
    (normalise c).toNat = c.toNat - 0x20 := by
  rw [normalise, if_pos h, BitVec.toNat_sub_of_le]
  · rfl
  · exact BitVec.le_def.mpr (le_trans (by decide) h.1)

/-- An upper-case letter has its place in the alphabet. -/
theorem base32Val_upper {u : Byte} (h : 0x41 ≤ u.toNat ∧ u.toNat ≤ 0x5A) : base32Val u = some (u.toNat - 0x41) :=
  if_pos h

/-- A digit from 2 to 7 comes after the letters. -/
theorem base32Val_digit {u : Byte} (h : 0x32 ≤ u.toNat ∧ u.toNat ≤ 0x37) :
    base32Val u = some (u.toNat - 0x32 + 26) := by
  rw [base32Val, if_neg (by omega), if_pos h]

/-- Every other byte has no value. -/
theorem base32Val_other {u : Byte} (hu : ¬ (0x41 ≤ u.toNat ∧ u.toNat ≤ 0x5A))
    (hd : ¬ (0x32 ≤ u.toNat ∧ u.toNat ≤ 0x37)) : base32Val u = none := by
  rw [base32Val, if_neg hu, if_neg hd]

/-! ### The obligations -/

/-- The accepted lengths, as a list. -/
theorem mem_secretLengths_of_eq {n : Nat} (h : n = 16 ∨ n = 26 ∨ n = 32) : n ∈ [16, 26, 32] := by
  simpa using h

/-- Settles O23: the key is that of `decodeSecret_of_values`, its number `intBe_beBytes_shiftRight`, the sum
`bitString_map_range`. -/
theorem keyIsTheBitStringOfTheValues : Obligations.KeyIsTheBitStringOfTheValues := by
  intro secret n v hn hv
  have hvs := base32Values_take_eq_some (by omega) hv
  have hnum := intBe_beBytes_shiftRight (base32Values_lt hvs) (m := 5 * n.toNat / 8)
    (by rw [List.length_map, List.length_range]; omega)
  rw [List.length_map, List.length_range, bitString_map_range] at hnum
  refine ⟨_, decodeSecret_of_values (mem_secretLengths_of_eq hn) hvs, ?_, ?_⟩
  · rw [beBytes_length]
    split_ifs <;> omega
  · rw [beBytes_length, bitString_map_range, hnum]

/-- Settles O24: a bad byte fails by `decodeSecret_bad_character`, and without one there is a key by
`exists_decodeSecret_eq_ok`. -/
theorem decodingFailsExactlyOnANonAlphabetByte : Obligations.DecodingFailsExactlyOnANonAlphabetByte := by
  intro secret n hn
  have hmem := mem_secretLengths_of_eq hn
  have hbad := decodeSecret_bad_character (secret := secret) hmem
  have hok (h : ¬ ∃ i : Fin 32, i.val < n.toNat ∧ base32Val (normalise secret[i]) = none) :=
    exists_decodeSecret_eq_ok (secret := secret) hmem fun i hi hnone => h ⟨i, hi, hnone⟩
  refine ⟨⟨fun herr => ?_, hbad⟩, fun hne => hok fun h => hne (hbad h), fun _ => decodeSecret_congr⟩
  by_contra h
  obtain ⟨k, hk⟩ := hok h
  cases herr.symm.trans hk

/-- Settles O25, by the class each byte is in before and after upper-casing. -/
theorem alphabetValues : Obligations.AlphabetValues := by
  refine fun c => ⟨fun h => ?_, fun h => ?_, fun h => ?_, fun h => ?_⟩
  · rw [normalise_of_not_lower (by omega), base32Val_upper h]
  · have hn := normalise_toNat_of_lower h
    rw [base32Val_upper (by omega), hn, Nat.sub_sub]
  · rw [normalise_of_not_lower (by omega), base32Val_digit h]
  · rw [normalise_of_not_lower (by omega), base32Val_other (by omega) (by omega)]

/-- Settles O20: the outcome is `exec_decode_ok`, the bytes of KEY are those of the padded buffer. -/
theorem decodeStoresTheKey : Obligations.DecodeStoresTheKey := fun _ k h =>
  ⟨padTo 20 k, fun i => padTo_getElem k i.val i.isLt, exec_decode_ok h⟩

/-- Settles O21, by `decodeSecret_error` and `exec_decode_error`. -/
theorem failedDecodeErasesTheKey : Obligations.FailedDecodeErasesTheKey := fun _ _ h =>
  ⟨decodeSecret_error h, exec_decode_error h⟩

end Sys2Proof.Machine
end

section
/-! PROOFS. The obligations of 41_counter.md on the COUNTER command and on times of one step. -/

namespace Sys2Proof.Machine

/-- The counter DeriveCounter answers is the floor of the time by 30 (41_counter.md R111). -/
theorem toNat_of_deriveCounter {time c : BitVec 64} (ht : 0 ≤ time.toInt) (h : deriveCounter time = .ok c) :
    (c.toNat : Int) = time.toInt / 30 := by
  obtain ⟨d, hd, hfloor⟩ := deriveCounter_nonneg ht
  cases h.symm.trans hd
  exact hfloor

/-- Settles O30: the counters are the floors, which are equal for one step and do not decrease. -/
theorem sameStepSameCounterAndCode : Obligations.SameStepSameCounterAndCode := by
  intro t1 t2 c1 c2 h0 hlt hc1 hc2
  have h1 := toNat_of_deriveCounter h0 hc1
  have h2 := toNat_of_deriveCounter (by omega) hc2
  refine ⟨?_, by omega, fun hc k => by rw [hc]⟩
  rw [← h1, ← h2, Nat.cast_inj, BitVec.toNat_inj]

/-- Settles O27, by `exec_counter_ok` with the counter of `deriveCounter_nonneg`. -/
theorem counterTakesTheTimeStep : Obligations.CounterTakesTheTimeStep := by
  intro s h
  obtain ⟨c, hc, hfloor⟩ := deriveCounter_nonneg h
  have hbits : BitVec.ofInt 64 (s.time.toInt / 30) = c := by
    rw [← hfloor, BitVec.ofInt_natCast, BitVec.ofNat_toNat, BitVec.setWidth_eq]
  rw [hbits]
  exact exec_counter_ok hc

/-- Settles O28, by `exec_counter_error`. -/
theorem counterRejectsTimesBeforeTheEpoch : Obligations.CounterRejectsTimesBeforeTheEpoch := fun _ h =>
  exec_counter_error (deriveCounter_neg h)

end Sys2Proof.Machine
end

section
/-! PROOFS. The obligations of 42_hmac_sha1.md on the key's trailing zeros and the vectors. Zeros up to one block are
the padding HMAC adds itself. -/

namespace Sys2Proof.Machine

/-- A key of at most one block makes the same block with trailing zeros or without (42_hmac_sha1.md R131). -/
theorem hmacBlockKey_append_zeros {k : List Byte} {z : Nat} (h : k.length + z ≤ 64) :
    hmacBlockKey (k ++ List.replicate z 0) = hmacBlockKey k := by
  have hlen : (k ++ List.replicate z (0 : Byte)).length = k.length + z := by simp
  rw [hmacBlockKey, hmacBlockKey, hlen, if_pos h, if_pos (by omega), List.append_assoc,
    List.replicate_append_replicate]
  congr 2
  omega

/-- Settles O36, by `hmacBlockKey_append_zeros`. -/
theorem trailingZeroBytesOfAKeyDoNotCount : Obligations.TrailingZeroBytesOfAKeyDoNotCount := by
  intro k m z h
  simp only [hmacSha1, hmacBlockKey_append_zeros h]

/-- Settles O35: each vector is a closed computation. -/
theorem sha1AndHmacVectors : Obligations.Sha1AndHmacVectors :=
  ⟨by decide +kernel, by decide +kernel, by decide +kernel, by decide +kernel, by decide +kernel⟩

end Sys2Proof.Machine
end

section
/-! PROOFS. The obligations of 43_generate.md on the masked bits and on the GENERATE command. The offset is at most
15, so the four bytes read are never the last one, and changing a masked bit changes neither the offset nor a byte
that is read. -/

namespace Sys2Proof.Machine

/-- Truncate at a known offset. -/
theorem truncate_of_offset {dg : Vector Byte 20} {o : Nat} (ho : o = dg[19].toNat % 16) (h : o < 16) :
    truncate dg = truncateAt dg o h := by
  subst ho
  simp only [truncate, truncOffset_eq]

/-- The mask drops the top bit (43_generate.md R141). -/
theorem xor_top_bit_and_mask : ∀ b : Byte, (b ^^^ 0x80) &&& 0x7F = b &&& 0x7F := by
  decide

/-- Flipping the top bit of the first byte read does not count. -/
theorem truncateAt_set_top_bit (dg : Vector Byte 20) (o : Nat) (h : o < 16) :
    truncateAt (dg.set o (dg[o] ^^^ 0x80)) o h = truncateAt dg o h := by
  have h1 : o ≠ o + 1 := by omega
  have h2 : o ≠ o + 2 := by omega
  have h3 : o ≠ o + 3 := by omega
  simp only [truncateAt, Vector.getElem_set_self, Vector.getElem_set_ne, h1, h2, h3, ne_eq, not_false_eq_true,
    xor_top_bit_and_mask]

/-- The last byte is not among those read. -/
theorem truncateAt_set_last (dg : Vector Byte 20) (b : Byte) (o : Nat) (h : o < 16) :
    truncateAt (dg.set 19 b) o h = truncateAt dg o h := by
  have h0 : 19 ≠ o := by omega
  have h1 : 19 ≠ o + 1 := by omega
  have h2 : 19 ≠ o + 2 := by omega
  have h3 : 19 ≠ o + 3 := by omega
  simp only [truncateAt, Vector.getElem_set_ne, h0, h1, h2, h3, ne_eq, not_false_eq_true]

/-- Settles O38: the offset is the same by `truncate_of_offset`, the bytes read by `truncateAt_set_top_bit` and
`truncateAt_set_last`. -/
theorem truncateIgnoresTheMaskedBits : Obligations.TruncateIgnoresTheMaskedBits := by
  intro dg o ho
  have hlt := o.isLt
  rw [truncate_of_offset ho hlt]
  refine ⟨?_, fun b hb => ?_⟩
  · have hlast : (dg.set o.val (dg[o.val] ^^^ 0x80))[19] = dg[19] := Vector.getElem_set_ne _ _ (by omega)
    rw [truncate_of_offset (by rw [hlast, ho]) hlt, truncateAt_set_top_bit]
  · rw [truncate_of_offset (by rw [Vector.getElem_set_self, hb]) hlt, truncateAt_set_last]

/-- Settles O40, by `exec_generate_ok` and the fields of GenerateCode. -/
theorem generateWritesTheCode : Obligations.GenerateWritesTheCode := fun _ hk hc =>
  ⟨_, _, rfl, reduceCode_toNat _, exec_generate_ok hk hc⟩

/-- Settles O41, by `exec_generate_error`. -/
theorem generateNeedsAKeyAndACounter : Obligations.GenerateNeedsAKeyAndACounter := fun _ h =>
  exec_generate_error h

/-- A write to a half of COUNTER that makes it c, and then GENERATE with a key held (70_reset_and_hazards.md R210). -/
theorem run_counter_write_generate {s : State} {rest : List HostEvent} (c : BitVec 64) (hk : s.keyValid = true)
    (hwrite : step s = .next (writeCounter c { s with pending := .write 0x04 4 0x00000003 :: rest })) :
    Host.Core.run core 2 s =
      .next (succeed (storeCode (generateCode (heldKey s) c) (writeCounter c { s with pending := rest }))) := by
  have hcommand := step_command (s := writeCounter c { s with pending := .write 0x04 4 0x00000003 :: rest }) rfl
  rw [run_succ hwrite, run_succ (hcommand.trans (exec_generate_ok hk rfl)), run_zero]
  rfl

/-- Settles O42: the half not written keeps its value, by the numbers of `joinHalves` and of the halves. -/
theorem generateUsesATornCounter : Obligations.GenerateUsesATornCounter := by
  rintro s off v rest hk (rfl | rfl) h
  · have hnum := joinHalves_toNat (hiHalf s.counter) v
    rw [hiHalf_toNat] at hnum
    exact ⟨_, run_counter_write_generate (joinHalves (hiHalf s.counter) v) hk
      (step_write (r := .counterLo) rfl (by decide) h), rfl, rfl, fun _ => hnum, nofun, rfl, rfl⟩
  · have hnum := joinHalves_toNat v (loHalf s.counter)
    rw [loHalf_toNat] at hnum
    exact ⟨_, run_counter_write_generate (joinHalves v (loHalf s.counter)) hk
      (step_write (r := .counterHi) rfl (by decide) h), rfl, rfl, nofun, fun _ => hnum, rfl, rfl⟩

end Sys2Proof.Machine
end

section
/-! PROOFS. The obligations of 44_control.md on TOTP and NOP. -/

namespace Sys2Proof.Machine

/-! ### TOTP (44_control.md R163): one outcome for each result of the two stages that can fail -/

/-- Settles O43, by `exec_totp_ok` with the counter of `deriveCounter_nonneg`. -/
theorem totpWritesTheCodeAndErasesTheKey : Obligations.TotpWritesTheCodeAndErasesTheKey := by
  intro s k hk ht
  obtain ⟨c, hc, hfloor⟩ := deriveCounter_nonneg ht
  exact ⟨c, _, _, hfloor, rfl, reduceCode_toNat _, exec_totp_ok hk hc⟩

/-- Settles O44: one failure for each stage that can fail, by the laws of TOTP's outcomes. -/
theorem totpFailuresLeaveNoOutput : Obligations.TotpFailuresLeaveNoOutput :=
  ⟨fun _ _ h => exec_totp_secret_error h, fun _ _ hk ht => exec_totp_clock_error hk (deriveCounter_neg ht)⟩

/-- The error DeriveCounter can report (41_counter.md R112). -/
theorem deriveCounter_error {time : BitVec 64} {e : ErrorKind} (h : deriveCounter time = .error e) :
    e = .clockError := by
  by_cases ht : time.toInt < 0
  · cases h.symm.trans (deriveCounter_neg ht)
    rfl
  · obtain ⟨c, hc, -⟩ := deriveCounter_nonneg (not_lt.mp ht)
    cases h.symm.trans hc

/-- An error of DecodeSecret is an error. -/
theorem decodeSecret_error_ne_none {secret : Vector Byte 32} {n : Word} {e : ErrorKind}
    (h : decodeSecret secret n = .error e) : e ≠ .none := by
  rcases decodeSecret_error h with rfl | rfl <;> decide

/-- A decoded key fits KEY. -/
theorem decodeSecret_ok_fits {secret : Vector Byte 32} {n : Word} {k : List Byte}
    (h : decodeSecret secret n = .ok k) : k.length ≤ 20 := by
  have hlegal := decodeSecret_ok_legal h
  simp only [List.mem_cons, List.not_mem_nil, or_false] at hlegal
  omega

/-- Settles O45: each of the three exits of TOTP is the exit of the first stage that fails. Where none fails, the
key GENERATE uses is the one DECODE stored. -/
theorem totpIsTheSequenceOfTheStages : Obligations.TotpIsTheSequenceOfTheStages := by
  intro s s1 s2 s3 h1 h2 h3
  cases hd : decodeSecret s.secret s.secretLen with
  | error e =>
    cases h1.symm.trans (exec_decode_error hd)
    exact (exec_totp_secret_error hd).trans (congrArg _ (if_pos (decodeSecret_error_ne_none hd)).symm)
  | ok k =>
    cases h1.symm.trans (exec_decode_ok hd)
    cases ht : deriveCounter s.time with
    | error e =>
      cases h2.symm.trans (exec_counter_error ht)
      obtain rfl := deriveCounter_error ht
      exact exec_totp_clock_error hd ht
    | ok c =>
      cases h2.symm.trans (exec_counter_ok ht)
      cases h3.symm.trans (exec_generate_ok rfl rfl)
      have hkey : heldKey (succeed (storeCounter c (clearCodeOutputs (succeed
          (storeKey k (clearCodeOutputs s)))))) = k :=
        heldKey_storeKey k _ (decodeSecret_ok_fits hd)
      rw [exec_totp_ok hd ht, hkey]
      rfl

/-- Settles O46: equal inputs give the same key and the same counter, so the same outcome of TOTP's three. -/
theorem totpDependsOnItsInputsOnly : Obligations.TotpDependsOnItsInputsOnly := by
  intro s s' t t' hlen htime hsecret h h'
  have hdecode : decodeSecret s'.secret s'.secretLen = decodeSecret s.secret s.secretLen :=
    hlen ▸ (decodeSecret_congr hsecret).symm
  cases hd : decodeSecret s.secret s.secretLen with
  | error e =>
    cases h.symm.trans (exec_totp_secret_error hd)
    cases h'.symm.trans (exec_totp_secret_error (hdecode.trans hd))
    refine ⟨rfl, rfl, rfl, rfl, rfl, rfl, rfl, rfl, rfl, ?_⟩
    rcases decodeSecret_error hd with rfl | rfl <;> simp
  | ok k =>
    cases ht : deriveCounter s.time with
    | error e =>
      cases h.symm.trans (exec_totp_clock_error hd ht)
      cases h'.symm.trans (exec_totp_clock_error (hdecode.trans hd) (htime ▸ ht))
      exact ⟨rfl, rfl, rfl, rfl, rfl, rfl, rfl, rfl, rfl, fun _ => ⟨rfl, rfl⟩⟩
    | ok c =>
      cases h.symm.trans (exec_totp_ok hd ht)
      cases h'.symm.trans (exec_totp_ok (hdecode.trans hd) (htime ▸ ht))
      exact ⟨rfl, rfl, rfl, rfl, rfl, rfl, rfl, rfl, rfl, fun _ => ⟨rfl, rfl⟩⟩

/-! ### NOP (44_control.md R171) -/

/-- STATUS[11:8] is the code of ERR (10_state.md R26). -/
theorem statusWord_err (s : State) : (statusWord s).extractLsb' 8 4 = s.err.code := by
  apply extractLsb'_eq_of_toNat
  have he := s.err.code.isLt
  have hv := s.codeValid.toNat_lt
  have hc := s.ctrValid.toNat_lt
  have hk := s.keyValid.toNat_lt
  rw [statusWord_toNat]
  omega

/-- The reset state with a code said to be valid: every command but NOP and ILLEGAL clears the code there. -/
def staleCodeState : State := { State.reset with codeValid := true }

/-- In that state NOP alone clears ERR and keeps the code. -/
theorem eq_nop_of_staleCodeState {i : Instr} {t : State} (h : exec i staleCodeState = .next t)
    (herr : t.err = .none) (hcode : t.codeValid = true) : i = .nop := by
  cases i with
  | nop => rfl
  | decode => cases h.symm.trans (exec_decode_error (e := .invalidSecretLength) rfl); cases herr
  | counter => cases h.symm.trans (exec_counter_ok (c := 0) rfl); cases hcode
  | generate => cases h.symm.trans (exec_generate_error (.inl rfl)); cases herr
  | totp => cases h.symm.trans (exec_totp_secret_error (e := .invalidSecretLength) rfl); cases herr
  | zeroize => cases h.symm.trans (exec_zeroize _); cases hcode
  | illegal w => cases h.symm.trans (exec_illegal w _); cases herr

/-- Settles O48: no other command does what NOP does in `staleCodeState`, and STATUS shows ERR and the valid bits
apart. -/
theorem nopClearsErrOnly : Obligations.NopClearsErrOnly := by
  refine ⟨exec_nop, fun i h => eq_nop_of_staleCodeState (h staleCodeState) rfl rfl, rfl, fun s t _ h => ?_⟩
  cases h.symm.trans (exec_nop s)
  exact ⟨statusWord_err (succeed s), (statusWord_valid_bits (succeed s)).trans (statusWord_valid_bits s).symm⟩

end Sys2Proof.Machine
end

section
/-! PROOFS. The obligations on what commands leave alone, on the erasure of the key and on COUNTER while a code is
valid. -/

namespace Sys2Proof.Machine

/-- Which commands can change what: only ZEROIZE the secret, only COUNTER and TOTP the counter, only DECODE, TOTP and
ZEROIZE the key. -/
theorem exec_fields_frame {i : Instr} {s t : State} (h : exec i s = .next t) :
    (i ≠ .zeroize → t.secret = s.secret ∧ t.secretLen = s.secretLen) ∧
    (i ≠ .counter → i ≠ .totp → t.counter = s.counter ∧ t.ctrValid = s.ctrValid) ∧
    (i ≠ .decode → i ≠ .totp → i ≠ .zeroize →
      t.key = s.key ∧ t.keyLen = s.keyLen ∧ t.keyValid = s.keyValid) := by
  rcases exec_cases h with ⟨rfl, e⟩ | ⟨_, rfl, e⟩ | ⟨rfl, e⟩ | ⟨_, rfl, _, e⟩ | ⟨_, rfl, _, e⟩ | ⟨_, rfl, _, e⟩ |
    ⟨_, rfl, _, e⟩ | ⟨rfl, _, e⟩ | ⟨rfl, _, _, e⟩ | ⟨_, rfl, _, e⟩ | ⟨_, _, rfl, _, _, e⟩ | ⟨_, _, rfl, _, _, e⟩
  all_goals
    cases e
    simp

/-- Settles O52: the host's lists and TIME by `exec_frame`, the rest by `exec_fields_frame`. -/
theorem commandFrames : Obligations.CommandFrames := by
  intro i s t h
  obtain ⟨htime, hpending, hobserved⟩ := exec_frame h
  obtain ⟨hsecret, hcounter, hkey⟩ := exec_fields_frame h
  refine ⟨hpending, hobserved, htime, hsecret, ?_, ?_, ?_⟩
  · rintro (rfl | rfl | rfl) <;> exact hcounter nofun nofun
  · rintro (rfl | rfl) <;> exact hkey nofun nofun nofun
  · rintro (rfl | ⟨w, rfl⟩)
    · cases h.symm.trans (exec_nop s); rfl
    · cases h.symm.trans (exec_illegal w s); rfl

/-! ### The erasure of the key (10_state.md section 6) -/

/-- Every TOTP ends with zeroize_key() and the setting of ERR. -/
theorem exec_totp_zeroizeKey {s t : State} (h : exec .totp s = .next t) : ∃ e u, t = raise e (zeroizeKey u) := by
  cases hd : decodeSecret s.secret s.secretLen with
  | error e => cases h.symm.trans (exec_totp_secret_error hd); exact ⟨e, _, rfl⟩
  | ok k =>
    cases ht : deriveCounter s.time with
    | error e => cases h.symm.trans (exec_totp_clock_error hd ht); exact ⟨e, _, rfl⟩
    | ok c => cases h.symm.trans (exec_totp_ok hd ht); exact ⟨.none, _, rfl⟩

/-- A DECODE that fails ends with zeroize_key() and the setting of ERR. -/
theorem exec_decode_zeroizeKey {s t : State} (h : exec .decode s = .next t) (he : t.err ≠ .none) :
    ∃ e u, t = raise e (zeroizeKey u) := by
  cases hd : decodeSecret s.secret s.secretLen with
  | error e => cases h.symm.trans (exec_decode_error hd); exact ⟨e, _, rfl⟩
  | ok k => cases h.symm.trans (exec_decode_ok hd); exact absurd rfl he

/-- Settles O53: each of the commands ends with zeroize_key(), and reset writes every field. -/
theorem keyIsOverwrittenOnEveryExitPath : Obligations.KeyIsOverwrittenOnEveryExitPath := by
  rintro s t (h | h | ⟨h, he⟩ | ⟨rest, hp, h⟩)
  · obtain ⟨e, u, rfl⟩ := exec_totp_zeroizeKey h
    exact ⟨rfl, rfl, rfl⟩
  · cases h.symm.trans (exec_zeroize s)
    exact ⟨rfl, rfl, rfl⟩
  · obtain ⟨e, u, rfl⟩ := exec_decode_zeroizeKey h he
    exact ⟨rfl, rfl, rfl⟩
  · cases h.symm.trans (step_reset hp)
    exact ⟨rfl, rfl, rfl⟩

/-! ### COUNTER while a code is valid (10_state.md R23, I5) -/

/-- A host write that leaves a valid code is not to a half of COUNTER. -/
theorem writeReg_counter_of_codeValid {r : Reg} {v : Word} {s : State} (h : (writeReg r v s).codeValid = true) :
    (writeReg r v s).counter = s.counter := by
  cases r with
  | counterLo | counterHi => cases h
  | _ => rfl

/-- The COUNTER command leaves no valid code. -/
theorem exec_counter_codeValid {s t : State} (h : exec .counter s = .next t) : t.codeValid = false := by
  cases ht : deriveCounter s.time with
  | error e => cases h.symm.trans (exec_counter_error ht); rfl
  | ok c => cases h.symm.trans (exec_counter_ok ht); rfl

/-- A command that leaves a valid code and changes COUNTER is TOTP. -/
theorem exec_counter_of_codeValid {i : Instr} {s t : State} (h : exec i s = .next t) (hv : t.codeValid = true) :
    t.counter = s.counter ∨ i = .totp := by
  by_cases ht : i = .totp
  · exact .inr ht
  · have hc : i ≠ .counter := by
      rintro rfl
      cases hv.symm.trans (exec_counter_codeValid h)
    obtain ⟨-, hcounter, -⟩ := exec_fields_frame h
    exact .inl (hcounter hc ht).1

/-- Settles O58: by the kind of event served. -/
theorem counterStaysWhileTheCodeIsValid : Obligations.CounterStaysWhileTheCodeIsValid := by
  intro s t h hv
  rcases step_cases h with ⟨_, e⟩ | ⟨_, _, e⟩ | ⟨_, _, _, _, _, e⟩ | ⟨_, _, _, _, _, _, _, e⟩ |
    ⟨w, rest, hp, e⟩ | ⟨_, _, _, _, _, e⟩
  · cases e; exact .inl rfl
  · cases e; cases hv
  · cases e; exact .inl rfl
  · cases e; exact .inl (writeReg_counter_of_codeValid hv)
  · exact (exec_counter_of_codeValid e.symm hv).imp_right fun htotp => ⟨w, rest, hp, htotp⟩
  · cases e

end Sys2Proof.Machine
end

section
/-! PROOFS. The obligations of 30_encoding.md R77 on the operations that load the host's operands. Each is a list of
register writes, and a run over such a list applies them one after another. -/

namespace Sys2Proof.Machine

/-! ### A run over register writes -/

/-- The writes of a list applied in order, the first one first. -/
def writeRegs (ws : List (Reg × Word)) (s : State) : State := ws.foldl (fun u w => writeReg w.1 w.2 u) s

/-- No host write depends on what the host has still to issue, or changes it. -/
theorem writeReg_pending (r : Reg) (v : Word) (s : State) (p : List HostEvent) :
    writeReg r v { s with pending := p } = { writeReg r v s with pending := p } := by
  cases r <;> rfl

/-- A run that serves a list of writes to registers other than CMD applies them in order. -/
theorem run_writes {ws : List (Reg × Word)} (hc : ∀ w ∈ ws, w.1 ≠ .cmd) {s : State} {rest : List HostEvent}
    (h : s.pending = ws.map (fun w => wrEvent w.1 w.2) ++ rest) :
    Host.Core.run core ws.length s = .next (writeRegs ws { s with pending := rest }) := by
  induction ws generalizing s with
  | nil =>
    obtain rfl : s.pending = rest := h
    exact run_zero s
  | cons w ws ih =>
    have hstep := step_write (regAt_regOffset w.1) (hc w List.mem_cons_self) h
    obtain ⟨-, -, -, -, hpending, -⟩ := writeReg_frame w.1 w.2
      { s with pending := ws.map (fun w => wrEvent w.1 w.2) ++ rest }
    have hrun := ih (fun u hu => hc u (List.mem_cons_of_mem w hu)) hpending
    rw [← writeReg_pending] at hrun
    exact (run_succ hstep ws.length).trans hrun

/-! ### SECRET, all its words -/

/-- SECRET with the words of another buffer written at the places of a list. -/
def copySecretWords (src : Vector Byte 32) (ks : List (Fin 8)) (b : Vector Byte 32) : Vector Byte 32 :=
  ks.foldl (fun b k => setSecretWord b k (secretWord src k)) b

/-- The lanes of a word of SECRET are its bytes. -/
theorem byteLane_secretWord (src : Vector Byte 32) {i : Nat} (hi : i < 32) {k : Fin 8} (hk : i / 4 = k.val) :
    byteLane (secretWord src k) (i % 4) = src[i] := by
  obtain ⟨h0, h1, h2, h3⟩ := byteLane_packWord src[4 * k.val] src[4 * k.val + 1] src[4 * k.val + 2] src[4 * k.val + 3]
  have hplace : i = 4 * k.val + i % 4 := by omega
  obtain h | h | h | h : i % 4 = 0 ∨ i % 4 = 1 ∨ i % 4 = 2 ∨ i % 4 = 3 := by omega
  all_goals
    rw [h] at hplace ⊢
    subst hplace
    assumption

/-- A byte of a word that is copied is the other buffer's, every other byte stays. -/
theorem copySecretWords_getElem (src : Vector Byte 32) (ks : List (Fin 8)) (b : Vector Byte 32) {i : Nat}
    (hi : i < 32) :
    (copySecretWords src ks b)[i] = if (⟨i / 4, by omega⟩ : Fin 8) ∈ ks then src[i] else b[i] := by
  induction ks generalizing b with
  | nil => simp [copySecretWords]
  | cons k ks ih =>
    rw [copySecretWords, List.foldl_cons]
    refine (ih _).trans ?_
    rw [setSecretWord_getElem]
    by_cases hk : i / 4 = k.val
    · rw [if_pos hk, byteLane_secretWord src hi hk, if_pos (List.mem_cons.mpr (.inl (Fin.ext hk)))]
      exact ite_self _
    · have hne : (⟨i / 4, by omega⟩ : Fin 8) ≠ k := fun e => hk (congrArg Fin.val e)
      simp only [if_neg hk, List.mem_cons, hne, false_or]

/-- Copying all eight words makes SECRET the other buffer. -/
theorem copySecretWords_all (src b : Vector Byte 32) : copySecretWords src (List.finRange 8) b = src :=
  Vector.ext fun _ hi => (copySecretWords_getElem src _ b hi).trans (if_pos (List.mem_finRange _))

/-- Writes of words of SECRET change SECRET alone. -/
theorem writeRegs_secret (src : Vector Byte 32) (ks : List (Fin 8)) (s : State) :
    writeRegs (ks.map fun k => (.secret k, secretWord src k)) s =
      { s with secret := copySecretWords src ks s.secret } := by
  induction ks generalizing s with
  | nil => rfl
  | cons k ks ih => exact ih (writeReg (.secret k) (secretWord src k) s)

/-- The nine writes of ld.secret (30_encoding.md R77). -/
def ldSecretWrites (str : List Byte) : List (Reg × Word) :=
  (List.finRange 8).map (fun k => (.secret k, secretWord (padTo 32 str) k))
    ++ [(.secretLen, BitVec.ofNat 32 str.length)]

/-- What the nine writes of ld.secret leave. -/
theorem writeRegs_ldSecretWrites (str : List Byte) (s : State) : writeRegs (ldSecretWrites str) s =
    { s with secret := padTo 32 str, secretLen := BitVec.ofNat 32 str.length } := by
  have hsecret := writeRegs_secret (padTo 32 str) (List.finRange 8) s
  rw [copySecretWords_all] at hsecret
  rw [ldSecretWrites, writeRegs, List.foldl_append]
  exact congrArg (writeReg .secretLen (BitVec.ofNat 32 str.length)) hsecret

/-! ### TIME and COUNTER, both halves -/

/-- The two writes of ld.time (30_encoding.md R77). -/
def timeHalves (x : BitVec 64) : List (Reg × Word) := [(.timeLo, loHalf x), (.timeHi, hiHalf x)]

/-- The two writes of ld.counter (30_encoding.md R77). -/
def counterHalves (x : BitVec 64) : List (Reg × Word) := [(.counterLo, loHalf x), (.counterHi, hiHalf x)]

/-- The second write joins its half of TIME to the first one's. -/
theorem writeRegs_timeHalves (x : BitVec 64) (s : State) : writeRegs (timeHalves x) s = { s with time := x } := by
  simp [timeHalves, writeRegs, writeReg]

/-- The second write joins its half of COUNTER to the first one's, and both clear the code outputs. -/
theorem writeRegs_counterHalves (x : BitVec 64) (s : State) :
    writeRegs (counterHalves x) s = writeCounter x s := by
  simp [counterHalves, writeRegs, writeReg, writeCounter, storeCounter, clearCodeOutputs]

/-! ### The obligations -/

/-- Settles O59: the run is `run_writes` over the nine writes, its result `writeRegs_ldSecretWrites`. -/
theorem ldSecretLoadsTheSecret : Obligations.LdSecretLoadsTheSecret := by
  intro s str rest _ h
  refine ⟨padTo 32 str, fun i => padTo_getElem str i.val i.isLt, ?_⟩
  have hc : ∀ w ∈ ldSecretWrites str, w.1 ≠ .cmd := by
    simp only [ldSecretWrites, List.mem_append, List.mem_map, List.mem_singleton]
    rintro w (⟨k, -, rfl⟩ | rfl)
    · nofun
    · nofun
  exact (run_writes hc h).trans (congrArg _ (writeRegs_ldSecretWrites str _))

/-- Settles O60: the two writes by `writeRegs_timeHalves` and `writeRegs_counterHalves`, the pattern of the number by
its range. -/
theorem ldTimeAndLdCounterLoadBothHalves : Obligations.LdTimeAndLdCounterLoadBothHalves := by
  refine ⟨fun s t rest hlo hhi h => ⟨BitVec.ofInt 64 t, BitVec.toInt_ofInt_eq_self (by decide) hlo hhi, ?_⟩,
    fun s c rest hc h => ⟨BitVec.ofNat 64 c, ?_, ?_⟩⟩
  · exact (run_writes (ws := timeHalves _) (by simp [timeHalves]) h).trans (congrArg _ (writeRegs_timeHalves _ _))
  · rw [BitVec.toNat_ofNat, Nat.mod_eq_of_lt hc]
  · exact (run_writes (ws := counterHalves _) (by simp [counterHalves]) h).trans
      (congrArg _ (writeRegs_counterHalves _ _))

end Sys2Proof.Machine
end
